-- ==== Sys2Proof/Word.lean ====
section
/-! DEFINITION. The two word types of the block: 8-bit stream elements and 32-bit registers (00_scope.md R12, R13). -/

namespace Sys2Proof

/-- A byte of a stream: FIFO element, sample, tag byte (00_scope.md R12). -/
abbrev Byte := BitVec 8

/-- A register value or a command word (00_scope.md R12, 30_encoding.md R90). -/
abbrev Word := BitVec 32

end Sys2Proof
end

