-- ==== Sys2Proof/Syntax.lean ====
section
/-! DEFINITION. The six commands (30_encoding.md R93), one constructor per row of the opcode table. -/

namespace Sys2Proof

/-- A decoded command word. TAGLEN is the only immediate (30_encoding.md R92); every other operand is
a register read at acceptance (40_commands.md R115). -/
inductive Instr where
  /-- NOP (40_commands.md R125). -/
  | nop
  /-- CRC_INIT (41_checksum.md R145). -/
  | crcInit
  /-- CRC_UPDATE (41_checksum.md R146). -/
  | crcUpdate
  /-- CRC_CALC (41_checksum.md R147). -/
  | crcCalc
  /-- FRAME with the tag length in bytes the word states (42_framer.md R163, R165). -/
  | frame (taglen : Nat)
  /-- PACK (43_packer.md R185). -/
  | pack
deriving DecidableEq, Repr

end Sys2Proof
end

