-- ==== Sys2Proof/WellFormed.lean ====
section
/-! DEFINITION. Which command terms some command word stands for. -/

namespace Sys2Proof

/-- TAGLEN is a 3-bit field (30_encoding.md R92): `cmd FRAME, taglen=n` needs 0 ≤ n ≤ 7 (R97). -/
def Instr.wellFormed : Instr → Bool
  | .nop => true
  | .crcInit => true
  | .crcUpdate => true
  | .crcCalc => true
  | .frame taglen => decide (taglen ≤ 7)
  | .pack => true

end Sys2Proof
end

