-- ==== Sys2Proof/Decode.lean ====
section
/-! DEFINITION. Decoding and encoding of command words (30_encoding.md R90 to R96). -/

namespace Sys2Proof

/-- Why a word is no command. -/
inductive DecodeError where
  /-- OPCODE 0x06 to 0xFF (30_encoding.md R95). The block rejects such a word with IllegalCommand. -/
  | reservedOpcode (opcode : Byte)
deriving DecidableEq, Repr

/-- OPCODE = cmd[7:0] (30_encoding.md R91). -/
def opcodeOf (w : Word) : Byte := w.extractLsb' 0 8

/-- TAGLEN = cmd[10:8] (30_encoding.md R91). -/
def taglenOf (w : Word) : BitVec 3 := w.extractLsb' 8 3

/-- Decode, total on every word (30_encoding.md R94): bits 31:11 take no part, bits 10:8 only in FRAME. -/
def decode (w : Word) : Except DecodeError Instr :=
  match (opcodeOf w).toNat with
  | 0x00 => .ok .nop
  | 0x01 => .ok .crcInit
  | 0x02 => .ok .crcUpdate
  | 0x03 => .ok .crcCalc
  | 0x04 => .ok (.frame (taglenOf w).toNat)
  | 0x05 => .ok .pack
  | _ => .error (.reservedOpcode (opcodeOf w))

/-- The word with the given fields and the reserved bits 31:11 zero (30_encoding.md R91). -/
def cmdWord (taglen : BitVec 3) (opcode : Byte) : Word := 0#21 ++ taglen ++ opcode

/-- The word the assembler of 30_encoding.md R97 writes; for TAGLEN 4 the canonical word of R93. -/
def encode : Instr → Word
  | .nop => cmdWord 0 0x00
  | .crcInit => cmdWord 0 0x01
  | .crcUpdate => cmdWord 0 0x02
  | .crcCalc => cmdWord 0 0x03
  | .frame taglen => cmdWord (BitVec.ofNat 3 taglen) 0x04
  | .pack => cmdWord 0 0x05

/-- The 32-bit command word whose low `nbits` bits are those of `w`, the bits above them zero. -/
def tableWord (nbits w : Nat) : Word := BitVec.ofNat 32 (w % 2 ^ nbits)

/-- The command the decoder reads from a table word. A command is one 32-bit word and nothing longer
(30_encoding.md R90). -/
def decodeTableWord (nbits w : Nat) : Option Instr :=
  if 32 < nbits then none
  else
    match decode (tableWord nbits w) with
    | .ok i => some i
    | .error _ => none

end Sys2Proof
end

