-- ==== Sys2Proof/Config.lean ====
section
/-! DEFINITION. The OPEN implementation parameters (00_scope.md R8 to R10).
Their values for the machine at hand are uninterpreted: no proof can see them, only their ranges
(log entry 2). CRC_IMPL (R11) has no observable effect and is no parameter of the model. -/

namespace Sys2Proof

/-- The configuration `(IN_DEPTH, OUT_DEPTH, BASE)` of 10_state.md R21. -/
structure Params where
  /-- IN_DEPTH, capacity of the input FIFO in bytes (00_scope.md R8). -/
  inDepth : Nat
  /-- OUT_DEPTH, capacity of the output FIFO in bytes (00_scope.md R9). -/
  outDepth : Nat
  /-- BASE, the bus address of window offset 0x00 (00_scope.md R10). -/
  base : Nat
deriving DecidableEq, Repr

/-- The ranges 00_scope.md R8 to R10 give the parameters. -/
abbrev Params.Legal (p : Params) : Prop :=
  1 ≤ p.inDepth ∧ p.inDepth ≤ 65535 ∧ 1 ≤ p.outDepth ∧ p.outDepth ≤ 65535 ∧ p.base % 64 = 0

/-- IN_DEPTH less one: every legal depth is possible (R8). -/
opaque Config.inDepthIndex : Fin 65535

/-- OUT_DEPTH less one: every legal depth is possible (R9). -/
opaque Config.outDepthIndex : Fin 65535

/-- BASE divided by 64: every legal base is possible (R10). -/
opaque Config.baseIndex : Nat

/-- The configuration of the machine at hand. -/
def Config.params : Params :=
  { inDepth := Config.inDepthIndex.val + 1
    outDepth := Config.outDepthIndex.val + 1
    base := 64 * Config.baseIndex }

end Sys2Proof
end

