-- ==== Sys2Proof/Machine/State.lean ====
section
/-! DEFINITION. The state of the block (10_state.md R21) as plain data, with its configuration and the
model's record of the outside world (log entries 1 and 2), and the state after reset (70_reset_and_hazards.md R234). -/

namespace Sys2Proof.Machine

/-- PHASE: where the engine stands in its command (10_state.md R40). -/
inductive Phase where
  | idle | crcRun | frLen | frTag | frPay | frCrc | pkSel | pkRow
deriving DecidableEq, Repr

/-- The channel count of an accepted PACK, 3 or 4 (10_state.md R21 S_C, 43_packer.md R182). -/
inductive Channels where
  /-- 3 channels -/
  | rgb
  /-- 4 channels -/
  | rgba
deriving DecidableEq, Repr

/-- The error kinds a rejection can report (60_exceptions.md R200). -/
inductive ErrorKind where
  | dimensionMismatch | invalidTag | unsupportedColorMode | dimensionRange | illegalCommand | busy
deriving DecidableEq, Repr

/-- The sixteen registers of the window (10_state.md section 7). -/
inductive Reg where
  | ctrl | status | cmd | errCode | len | tag | width | height
  | cfg | bufLenLo | bufLenHi | crcState | crcResult | inData | outData | fifoStatus
deriving DecidableEq, Repr

/-- The width of a bus access (20_memory.md R63). -/
inductive Width where
  | w8 | w16 | w32 | w64
deriving DecidableEq, Repr

/-- One host access (20_memory.md R62). `offset` is the bus address less BASE, so that an access outside the
window can be written too (R61). A write carries 32 bits, the one supported width. -/
inductive Access where
  | read (offset : Int) (width : Width)
  | write (offset : Int) (width : Width) (value : Word)
deriving DecidableEq, Repr

/-- Who takes a step (00_scope.md R17, 10_state.md R20, 70_reset_and_hazards.md R230). -/
inductive Agent where
  | host | engine
  /-- the environment asserts the reset input -/
  | resetInput
deriving DecidableEq, Repr

/-- The reasons a step can fault: none. The block has no traps, and every error of the spec is a
rejection after which it goes on (60_exceptions.md R208). -/
inductive Fault where
deriving DecidableEq, Repr

/-- The reasons a step can be refused. -/
inductive Refusal where
  /-- Raised by an arm of exec whose instruction has no meaning yet; no arm is in that case. Safe. -/
  | notModelled (mnemonic : String)
  /-- Raised by a host access of the window that is not 32 bits wide or not 4-byte aligned: the spec itself
  says that the model refuses it (20_memory.md R63). Safe. -/
  | unsupportedAccess
deriving DecidableEq, Repr

/-- The whole state. -/
structure State where
  /-- CTRL.IE_DONE (R31) -/
  ieDone : Bool
  /-- CTRL.IE_ERR (R31) -/
  ieErr : Bool
  /-- STATUS.DONE (R32) -/
  done : Bool
  /-- STATUS.ERR (R32) -/
  err : Bool
  /-- STATUS.IN_OVF (R32) -/
  inOvf : Bool
  /-- ERR_CODE.CODE (R35) -/
  errCode : BitVec 4
  /-- LEN (R22) -/
  len : Word
  /-- TAG (R23) -/
  tag : Word
  /-- WIDTH (R24) -/
  width : Word
  /-- HEIGHT (R25) -/
  height : Word
  /-- CFG.COLOR_TYPE (R26) -/
  colorType : Byte
  /-- BUF_LEN_LO (R27) -/
  bufLenLo : Word
  /-- BUF_LEN_HI (R27) -/
  bufLenHi : Word
  /-- CRC_STATE (R29) -/
  crcState : Word
  /-- INQ, head first (R36) -/
  inq : List Byte
  /-- OUTQ, head first (R36) -/
  outq : List Byte
  /-- PHASE (R40) -/
  phase : Phase
  /-- CNT, bytes left in the current phase (R40) -/
  cnt : Nat
  /-- IDX, byte index in a 4-byte field (R40) -/
  idx : Fin 4
  /-- ROWS, rows left, the current one included (R40) -/
  rows : Nat
  /-- S_LEN (R42) -/
  sLen : Word
  /-- S_TAG (R42) -/
  sTag : Word
  /-- S_W (R42) -/
  sW : Word
  /-- S_C (R42) -/
  sC : Channels
  /-- the configuration, which no step changes (log entry 2) -/
  params : Params
  /-- the model's own: who moves in the next steps, next first (log entry 1) -/
  sched : List Agent
  /-- the model's own: the host's accesses to come, in issue order (log entry 1) -/
  hostAccesses : List Access
  /-- the model's own: the values the host's reads returned, most recent first (log entry 1) -/
  readLog : List Word
deriving DecidableEq, Repr

/-- What a step of this machine answers. -/
abbrev Result := Host.Outcome State Fault Refusal

/-- The block after reset under the configuration `p` (70_reset_and_hazards.md R234). The hidden values R234
leaves unspecified (CNT, IDX, ROWS and the snapshots) are zero, and S_C is 3: DESIGN CHOICE, unsafe, log entry 3. -/
def State.resetWith (p : Params) : State where
  ieDone := false
  ieErr := false
  done := false
  err := false
  inOvf := false
  errCode := 0
  len := 0
  tag := 0
  width := 0
  height := 0
  colorType := 0
  bufLenLo := 0
  bufLenHi := 0
  crcState := 0xFFFFFFFF
  inq := []
  outq := []
  phase := .idle
  cnt := 0
  idx := 0
  rows := 0
  sLen := 0
  sTag := 0
  sW := 0
  sC := .rgb
  params := p
  sched := []
  hostAccesses := []
  readLog := []

/-- The machine right after reset, under the uninterpreted configuration of Config. -/
def State.reset : State := State.resetWith Config.params

end Sys2Proof.Machine
end

