-- ==== Sys2Proof/Machine/Ops.lean ====
section
/-! DEFINITION. The operations every command and access is built from: byte order, the two FIFOs, accepting,
completing and rejecting a command (the block's way of taking an error), acknowledging an error, and reset. -/

namespace Sys2Proof.Machine

/-- Byte `i` of the big-endian form of a word, most significant byte first (00_scope.md R15). -/
def be32Byte (v : Word) (i : Fin 4) : Byte := v.extractLsb' (8 * (3 - i.val)) 8

/-- be32 (00_scope.md R15; 20_memory.md R73). -/
def be32 (v : Word) : List Byte := [be32Byte v 0, be32Byte v 1, be32Byte v 2, be32Byte v 3]

/-- BUSY (10_state.md R41). -/
def busy (s : State) : Bool := s.phase != .idle

/-- Push by the host: a byte that finds INQ full is discarded and sets IN_OVF (20_memory.md R70). -/
def pushInput (b : Byte) (s : State) : State :=
  if s.inq.length < s.params.inDepth then { s with inq := s.inq ++ [b] }
  else { s with inOvf := true }

/-- The word a read of OUT_DATA returns: VALID = 1 in bit 8 and the head byte of OUTQ, or 0 (20_memory.md R71). -/
def outDataWord (s : State) : Word :=
  match s.outq with
  | [] => 0
  | b :: _ => 0x100#32 ||| b.setWidth 32

/-- Pop by the host: the head byte leaves OUTQ, where there is one (20_memory.md R71). -/
def popOutput (s : State) : State := { s with outq := s.outq.tail }

/-- `b ← InPop()` and then `go`. Where InPop is not defined there is no step (20_memory.md R72). -/
def withInput (s : State) (go : Byte → State → State) : State :=
  match s.inq with
  | [] => s
  | b :: rest => go b { s with inq := rest }

/-- OutPush (20_memory.md R72); the engine takes it only where `outputFree` holds. -/
def outPush (b : Byte) (s : State) : State := { s with outq := s.outq ++ [b] }

/-- The condition under which OutPush is defined (20_memory.md R72). -/
def outputFree (s : State) : Bool := decide (s.outq.length < s.params.outDepth)

/-- Accept (40_commands.md R114). -/
def accept (s : State) : State := { s with done := false }

/-- Complete (40_commands.md R116). -/
def complete (s : State) : State := { s with phase := .idle, done := true }

/-- The numbers of the error kinds (60_exceptions.md R200). -/
def errorCode : ErrorKind → BitVec 4
  | .dimensionMismatch => 1
  | .invalidTag => 2
  | .unsupportedColorMode => 3
  | .dimensionRange => 4
  | .illegalCommand => 5
  | .busy => 6

/-- Rejection, the block's error entry (40_commands.md R113, 60_exceptions.md R208). -/
def reject (k : ErrorKind) (s : State) : State := { s with err := true, errCode := errorCode k }

/-- Acknowledging an error, the block's error return (60_exceptions.md R209). -/
def acknowledge (s : State) : State := { s with err := false, errCode := 0 }

/-- `Issue` of 40_commands.md R111: Busy first, then the command's own checks, then Accept and its start action.
The order of the checks is 60_exceptions.md R204. -/
def issueCommand {α : Type} (s : State) (check : Except ErrorKind α) (start : α → State → State) : Result :=
  if busy s then .next (reject .busy s)
  else
    match check with
    | .error k => .next (reject k s)
    | .ok a => .next (start a (accept s))

/-- Reset of the block, by its input or by CTRL.SRST (70_reset_and_hazards.md R230, R232, R234). The
configuration is not state (10_state.md R21), and what the host has read or will do is outside the block. -/
def resetBlock (s : State) : State :=
  { State.resetWith s.params with
    sched := s.sched, hostAccesses := s.hostAccesses, readLog := s.readLog }

end Sys2Proof.Machine
end

