-- ==== Sys2Proof/Machine/Checksum.lean ====
section
/-! DEFINITION. The Checksum Unit (41_checksum.md): the CRC function in its bit form and its table form, the
commands CRC_INIT, CRC_UPDATE and CRC_CALC, and the engine step of phase CRC_RUN. -/

namespace Sys2Proof.Machine

/-- POLY, the reflected generator polynomial (41_checksum.md R140; from the spec's general knowledge, log entry 7). -/
def crcPoly : Word := 0xEDB88320

/-- The all-ones initial register (41_checksum.md R140). -/
def crcInitial : Word := 0xFFFFFFFF

/-- One of the eight iterations of crc_byte (41_checksum.md R140). -/
def crcBit (c : Word) : Word := if c.getLsbD 0 then (c >>> 1) ^^^ crcPoly else c >>> 1

/-- crc_byte (41_checksum.md R140). -/
def crcByte (c : Word) (b : Byte) : Word := Nat.repeat crcBit 8 (c ^^^ b.setWidth 32)

/-- crc_run, a left fold of crc_byte (41_checksum.md R140). -/
def crcRun (c : Word) (s : List Byte) : Word := s.foldl crcByte c

/-- checksum (41_checksum.md R140). -/
def checksum (s : List Byte) : Word := ~~~ crcRun crcInitial s

/-- The table form of crc_byte over a table `T` (41_checksum.md R142). -/
def crcByteTable (T : Byte → Word) (c : Word) (b : Byte) : Word :=
  (c >>> 8) ^^^ T ((c ^^^ b.setWidth 32).extractLsb' 0 8)

/-- CRC_INIT (41_checksum.md R145). -/
def execCrcInit (s : State) : Result :=
  issueCommand s (.ok ()) fun _ t => complete { t with crcState := crcInitial }

/-- `CNT ← LEN`, then completion at once where LEN is 0, else CRC_RUN (41_checksum.md R146, R147). -/
def startCrcRun (s : State) : State :=
  if s.len.toNat = 0 then complete { s with cnt := 0 }
  else { s with cnt := s.len.toNat, phase := .crcRun }

/-- CRC_UPDATE: continues from the CRC register as it is (41_checksum.md R146). -/
def execCrcUpdate (s : State) : Result := issueCommand s (.ok ()) fun _ => startCrcRun

/-- CRC_CALC: starts from the initial register (41_checksum.md R147). -/
def execCrcCalc (s : State) : Result :=
  issueCommand s (.ok ()) fun _ t => startCrcRun { t with crcState := crcInitial }

/-- The byte `b` enters the CRC register. -/
def absorb (b : Byte) (s : State) : State := { s with crcState := crcByte s.crcState b }

/-- One byte less to go; `last` where none is left (41_checksum.md R148, 42_framer.md R170, 43_packer.md R188). -/
def countDown (last : State → State) (s : State) : State :=
  if s.cnt - 1 = 0 then last { s with cnt := s.cnt - 1 } else { s with cnt := s.cnt - 1 }

/-- The engine step of phase CRC_RUN (41_checksum.md R148). -/
def stepCrcRun (s : State) : State := withInput s fun b t => countDown complete (absorb b t)

end Sys2Proof.Machine
end

