-- ==== Sys2Proof/Machine/Control.lean ====
section
/-! DEFINITION. The control family: NOP, and the rejection of words that are no command. -/

namespace Sys2Proof.Machine

/-- NOP: accepted and completed in the issuing step (40_commands.md R125). -/
def execNop (s : State) : Result := issueCommand s (.ok ()) fun _ => complete

/-- A word that decodes to no command: Busy comes first, then IllegalCommand (30_encoding.md R95,
60_exceptions.md R204). -/
def rejectIllegal (s : State) : Result := issueCommand s (.error .illegalCommand) fun (_ : Unit) t => t

end Sys2Proof.Machine
end

