-- ==== Sys2Proof/Machine/Operands.lean ====
section
/-! DEFINITION. The operands a command reads at acceptance, and the checks on them (40_commands.md R115). -/

namespace Sys2Proof.Machine

/-- The number of channels (43_packer.md R182). -/
def Channels.count : Channels → Nat
  | .rgb => 3
  | .rgba => 4

/-- `channels(ct)`: 2 is RGB, 6 is RGBA, nothing else is a colour type (43_packer.md R182, 90_conflicts.md C2). -/
def channelsOf (ct : Byte) : Option Channels :=
  if ct = 2 then some .rgb else if ct = 6 then some .rgba else none

/-- BUF_LEN, the 64-bit declared pixel-buffer length (10_state.md R27). -/
def bufLen (s : State) : BitVec 64 := s.bufLenHi ++ s.bufLenLo

/-- A width or height PACK accepts: 1 to 0x7FFFFFFF (43_packer.md R183). -/
def dimensionInRange (v : Word) : Bool := decide (1 ≤ v.toNat) && decide (v.toNat ≤ 0x7FFFFFFF)

/-- W · H · C, exact (43_packer.md R183, 00_scope.md R16). -/
def sampleCount (s : State) (c : Channels) : Nat := s.width.toNat * s.height.toNat * c.count

/-- Check_FRAME (42_framer.md R166). -/
def checkFrame (taglen : Nat) : Except ErrorKind Unit :=
  if taglen = 4 then .ok () else .error .invalidTag

/-- Check_PACK, the first failing check deciding (43_packer.md R183); the channel count where all pass. -/
def checkPack (s : State) : Except ErrorKind Channels :=
  match channelsOf s.colorType with
  | none => .error .unsupportedColorMode
  | some c =>
    if (dimensionInRange s.width && dimensionInRange s.height) = false then .error .dimensionRange
    else if (bufLen s).toNat = sampleCount s c then .ok c
    else .error .dimensionMismatch

end Sys2Proof.Machine
end

