-- ==== Sys2Proof/Machine/Framer.lean ====
section
/-! DEFINITION. The Segment Framer (42_framer.md): the framing function, the command FRAME and the engine steps
of its four phases. -/

namespace Sys2Proof.Machine

/-- frame(tag, payload) (42_framer.md R160). -/
def frameBytes (tag payload : List Byte) : List Byte :=
  be32 (BitVec.ofNat 32 payload.length) ++ tag ++ payload ++ be32 (checksum (tag ++ payload))

/-- Start_FRAME (42_framer.md R167). -/
def startFrame (s : State) : State :=
  { s with sLen := s.len, sTag := s.tag, crcState := crcInitial, idx := 0, phase := .frLen }

/-- FRAME: Check_FRAME, Accept, Start_FRAME (42_framer.md R165 to R167). -/
def execFrame (taglen : Nat) (s : State) : Result :=
  issueCommand s (checkFrame taglen) fun _ => startFrame

/-- `IDX ← IDX + 1`; after the fourth byte IDX is 0 again and `last` follows (42_framer.md R168, R169, R171;
log entry 4 for R171). -/
def nextIndex (last : State → State) (s : State) : State :=
  if s.idx = 3 then last { s with idx := 0 } else { s with idx := s.idx + 1 }

/-- The engine step of phase FR_LEN: the length bytes do not enter the CRC (42_framer.md R168). -/
def stepFrLen (s : State) : State :=
  nextIndex (fun t => { t with phase := .frTag }) (outPush (be32Byte s.sLen s.idx) s)

/-- What follows the last tag byte: the payload, or the checksum where there is none (42_framer.md R169). -/
def afterTag (s : State) : State :=
  if s.sLen.toNat = 0 then { s with phase := .frCrc }
  else { s with cnt := s.sLen.toNat, phase := .frPay }

/-- The engine step of phase FR_TAG (42_framer.md R169). -/
def stepFrTag (s : State) : State :=
  nextIndex afterTag (absorb (be32Byte s.sTag s.idx) (outPush (be32Byte s.sTag s.idx) s))

/-- The engine step of phase FR_PAY: the byte passes through and enters the CRC (42_framer.md R170). -/
def stepFrPay (s : State) : State :=
  withInput s fun b t =>
    countDown (fun u => { u with idx := 0, phase := .frCrc }) (absorb b (outPush b t))

/-- The engine step of phase FR_CRC: the complement of CRC_STATE, most significant byte first (42_framer.md R171). -/
def stepFrCrc (s : State) : State :=
  nextIndex complete (outPush (be32Byte (~~~ s.crcState) s.idx) s)

end Sys2Proof.Machine
end

