-- ==== Sys2Proof/Machine/Packer.lean ====
section
/-! DEFINITION. The Scanline Packer (43_packer.md): the packing function, the command PACK and the engine steps
of its two phases. -/

namespace Sys2Proof.Machine

/-- The filter-selector byte, hardwired to filter type 0 (43_packer.md R187, R192). -/
def filterByte : Byte := 0x00

/-- pack(p, W, H, C): each row y is the filter byte and then bytes y·W·C to (y+1)·W·C − 1 of p (43_packer.md R180). -/
def packBytes (p : List Byte) (w h c : Nat) : List Byte :=
  (List.range h).flatMap fun y => filterByte :: (p.drop (y * w * c)).take (w * c)

/-- Start_PACK (43_packer.md R186). -/
def startPack (c : Channels) (s : State) : State :=
  { s with sW := s.width, sC := c, rows := s.height.toNat, phase := .pkSel }

/-- PACK: Check_PACK, Accept, Start_PACK (43_packer.md R183, R185, R186). -/
def execPack (s : State) : Result := issueCommand s (checkPack s) startPack

/-- S_W · S_C, the samples of one row (43_packer.md R187). -/
def rowSamples (s : State) : Nat := s.sW.toNat * s.sC.count

/-- The engine step of phase PK_SEL (43_packer.md R187). -/
def stepPkSel (s : State) : State :=
  { outPush filterByte s with cnt := rowSamples s, phase := .pkRow }

/-- What follows the last sample of a row: the next row, or completion after the last (43_packer.md R188). -/
def afterRow (s : State) : State :=
  if s.rows - 1 = 0 then complete { s with rows := s.rows - 1 }
  else { s with rows := s.rows - 1, phase := .pkSel }

/-- The engine step of phase PK_ROW: the sample is copied (43_packer.md R188). -/
def stepPkRow (s : State) : State := withInput s fun b t => countDown afterRow (outPush b t)

end Sys2Proof.Machine
end

