-- ==== Sys2Proof/Machine/Dispatch.lean ====
section
/-! DEFINITION. The issuing step of each command (40_commands.md R111): one arm per constructor of Instr. -/

namespace Sys2Proof.Machine

def exec (i : Instr) (s : State) : Host.Outcome State Fault Refusal :=
  match i with
  | .nop => Sys2Proof.Machine.execNop s
  | .crcInit => Sys2Proof.Machine.execCrcInit s
  | .crcUpdate => Sys2Proof.Machine.execCrcUpdate s
  | .crcCalc => Sys2Proof.Machine.execCrcCalc s
  | .frame taglen => Sys2Proof.Machine.execFrame taglen s
  | .pack => Sys2Proof.Machine.execPack s

end Sys2Proof.Machine
end

