-- ==== Sys2Proof/Machine/Flags.lean ====
section
/-! DEFINITION. The status flags, the interrupt output, and the register words made of them. -/

namespace Sys2Proof.Machine

/-- The interrupt output (60_exceptions.md R210). -/
def irq (s : State) : Bool := (s.done && s.ieDone) || ((s.err || s.inOvf) && s.ieErr)

/-- The word STATUS reads as: IRQ, IN_OVF, ERR, DONE, BUSY in bits 4 to 0 (10_state.md R32). -/
def statusWord (s : State) : Word :=
  (BitVec.ofBool (irq s) ++ BitVec.ofBool s.inOvf ++ BitVec.ofBool s.err ++ BitVec.ofBool s.done
    ++ BitVec.ofBool (busy s)).setWidth 32

/-- The word CTRL reads as: IE_ERR, IE_DONE in bits 1 and 0; SRST reads 0 (10_state.md R31). -/
def ctrlWord (s : State) : Word := (BitVec.ofBool s.ieErr ++ BitVec.ofBool s.ieDone).setWidth 32

/-- The word FIFO_STATUS reads as: OUT_LEVEL in bits 31:16, IN_LEVEL in bits 15:0 (10_state.md R39). -/
def fifoStatusWord (s : State) : Word := BitVec.ofNat 16 s.outq.length ++ BitVec.ofNat 16 s.inq.length

/-- The write-one-to-clear write of STATUS; clearing ERR also clears ERR_CODE (10_state.md R32, R35). -/
def clearFlags (v : Word) (s : State) : State :=
  let s := if v.getLsbD 1 then { s with done := false } else s
  let s := if v.getLsbD 3 then { s with inOvf := false } else s
  if v.getLsbD 2 then acknowledge s else s

end Sys2Proof.Machine
end

