-- ==== Sys2Proof/Machine/Bus.lean ====
section
/-! DEFINITION. Host accesses of the register window: routing, reads, writes, and a write of CMD as the issue of a
command (20_memory.md, 10_state.md, 40_commands.md R111). -/

namespace Sys2Proof.Machine

/-- The register at a window offset: number o[5:2], offsets a multiple of 4 below 64 (20_memory.md R61,
10_state.md section 7). -/
def regAt : Nat → Option Reg
  | 0x00 => some .ctrl
  | 0x04 => some .status
  | 0x08 => some .cmd
  | 0x0C => some .errCode
  | 0x10 => some .len
  | 0x14 => some .tag
  | 0x18 => some .width
  | 0x1C => some .height
  | 0x20 => some .cfg
  | 0x24 => some .bufLenLo
  | 0x28 => some .bufLenHi
  | 0x2C => some .crcState
  | 0x30 => some .crcResult
  | 0x34 => some .inData
  | 0x38 => some .outData
  | 0x3C => some .fifoStatus
  | _ => none

/-- The window offset of a register (10_state.md section 7). -/
def regOffset : Reg → Nat
  | .ctrl => 0x00
  | .status => 0x04
  | .cmd => 0x08
  | .errCode => 0x0C
  | .len => 0x10
  | .tag => 0x14
  | .width => 0x18
  | .height => 0x1C
  | .cfg => 0x20
  | .bufLenLo => 0x24
  | .bufLenHi => 0x28
  | .crcState => 0x2C
  | .crcResult => 0x30
  | .inData => 0x34
  | .outData => 0x38
  | .fifoStatus => 0x3C

/-- The bytes an access covers. -/
def widthBytes : Width → Nat
  | .w8 => 1
  | .w16 => 2
  | .w32 => 4
  | .w64 => 8

/-- A bus address seen from the window: its distance from BASE (00_scope.md R10, 20_memory.md R61). -/
def windowOffset (p : Params) (address : Nat) : Int := (address : Int) - (p.base : Int)

/-- Whether an access touches the 64-byte window. One that does not never reaches the block (20_memory.md R61). -/
def reachesBlock (offset : Int) (width : Width) : Bool :=
  decide (0 < offset + widthBytes width) && decide (offset < 64)

/-- The register of a supported access: 32 bits wide at an offset that is a multiple of 4 (20_memory.md R63). -/
def accessReg (offset : Int) (width : Width) : Option Reg :=
  match width, offset with
  | .w32, .ofNat o => regAt o
  | _, _ => none

/-- The value a register reads as (20_memory.md R65; 10_state.md R22 to R39). -/
def regValue (r : Reg) (s : State) : Word :=
  match r with
  | .ctrl => ctrlWord s
  | .status => statusWord s
  | .cmd => 0
  | .errCode => s.errCode.setWidth 32
  | .len => s.len
  | .tag => s.tag
  | .width => s.width
  | .height => s.height
  | .cfg => s.colorType.setWidth 32
  | .bufLenLo => s.bufLenLo
  | .bufLenHi => s.bufLenHi
  | .crcState => s.crcState
  | .crcResult => ~~~ s.crcState
  | .inData => 0
  | .outData => outDataWord s
  | .fifoStatus => fifoStatusWord s

/-- The state after a read: only OUT_DATA has a side effect (20_memory.md R66, R71). -/
def readEffect (r : Reg) (s : State) : State :=
  match r with
  | .outData => popOutput s
  | .ctrl | .status | .cmd | .errCode | .len | .tag | .width | .height
  | .cfg | .bufLenLo | .bufLenHi | .crcState | .crcResult | .inData | .fifoStatus => s

/-- A host read: the value goes to the host, then the read's side effect (20_memory.md R62, R64). -/
def readReg (r : Reg) (s : State) : State :=
  readEffect r { s with readLog := regValue r s :: s.readLog }

/-- Issue of a command word (40_commands.md R111). -/
def issue (w : Word) (s : State) : Result :=
  match decode w with
  | .ok i => exec i s
  | .error _ => rejectIllegal s

/-- A write of CTRL: bit 31 resets the block and stores nothing, else bits 1:0 are stored (10_state.md R31,
70_reset_and_hazards.md R232). -/
def writeCtrl (v : Word) (s : State) : State :=
  if v.getLsbD 31 then resetBlock s
  else { s with ieDone := v.getLsbD 0, ieErr := v.getLsbD 1 }

/-- A write of CRC_STATE is ignored while BUSY (10_state.md R29). -/
def writeCrcState (v : Word) (s : State) : State :=
  if busy s then s else { s with crcState := v }

/-- A host write (20_memory.md R65, R66; 10_state.md R22 to R39). Read-only registers ignore it. -/
def writeReg (r : Reg) (v : Word) (s : State) : Result :=
  match r with
  | .ctrl => .next (writeCtrl v s)
  | .status => .next (clearFlags v s)
  | .cmd => issue v s
  | .len => .next { s with len := v }
  | .tag => .next { s with tag := v }
  | .width => .next { s with width := v }
  | .height => .next { s with height := v }
  | .cfg => .next { s with colorType := v.extractLsb' 0 8 }
  | .bufLenLo => .next { s with bufLenLo := v }
  | .bufLenHi => .next { s with bufLenHi := v }
  | .crcState => .next (writeCrcState v s)
  | .inData => .next (pushInput (v.extractLsb' 0 8) s)
  | .errCode | .crcResult | .outData | .fifoStatus => .next s

/-- One host access, whole in one step (20_memory.md R64): outside the window it does not reach the block (R61);
of an unsupported width or alignment it is refused (R63). -/
def hostAccess (a : Access) (s : State) : Result :=
  match a with
  | .read offset width =>
    if reachesBlock offset width then
      match accessReg offset width with
      | some r => .next (readReg r s)
      | none => .refused .unsupportedAccess
    else .next s
  | .write offset width v =>
    if reachesBlock offset width then
      match accessReg offset width with
      | some r => writeReg r v s
      | none => .refused .unsupportedAccess
    else .next s

end Sys2Proof.Machine
end

