-- ==== Sys2Proof/Machine/Engine.lean ====
section
/-! DEFINITION. The engine: when it has a step, and which (40_commands.md R117, R118). -/

namespace Sys2Proof.Machine

/-- The phases whose step takes an input byte (40_commands.md R118). -/
def needsInput : Phase → Bool
  | .crcRun | .frPay | .pkRow => true
  | .idle | .frLen | .frTag | .frCrc | .pkSel => false

/-- The phases whose step emits an output byte (40_commands.md R118). -/
def needsOutput : Phase → Bool
  | .frLen | .frTag | .frCrc | .pkSel | .frPay | .pkRow => true
  | .idle | .crcRun => false

/-- Whether the engine has a step: a command runs and its needs are met (40_commands.md R117, R118). -/
def engineEnabled (s : State) : Bool :=
  busy s && (!needsInput s.phase || !s.inq.isEmpty) && (!needsOutput s.phase || outputFree s)

/-- The engine's step where it is enabled, selected by PHASE (40_commands.md R117). -/
def engineMove (s : State) : State :=
  match s.phase with
  | .idle => s
  | .crcRun => stepCrcRun s
  | .frLen => stepFrLen s
  | .frTag => stepFrTag s
  | .frPay => stepFrPay s
  | .frCrc => stepFrCrc s
  | .pkSel => stepPkSel s
  | .pkRow => stepPkRow s

/-- The engine's turn: its step, or waiting where it has none; a wait changes nothing (40_commands.md R118). -/
def engineStep (s : State) : State := if engineEnabled s then engineMove s else s

end Sys2Proof.Machine
end

