-- ==== Sys2Proof/Machine/Turn.lean ====
section
/-! DEFINITION. One turn of one agent (00_scope.md R17), and where the host's next command comes from. -/

namespace Sys2Proof.Machine

/-- The host's turn: its next access, or nothing where it has none to make. -/
def hostTurn (s : State) : Result :=
  match s.hostAccesses with
  | [] => .next s
  | a :: rest => hostAccess a { s with hostAccesses := rest }

/-- A turn of the agent given (00_scope.md R17; 70_reset_and_hazards.md R230 for the reset input). -/
def turn (a : Agent) (s : State) : Result :=
  match a with
  | .host => hostTurn s
  | .engine => .next (engineStep s)
  | .resetInput => .next (resetBlock s)

/-- The agent that moves where the schedule names none: the engine where it has a step, else the host.
DESIGN CHOICE, log entry 1: an enabled engine step is then taken, as 40_commands.md R121 asks. -/
def defaultAgent (s : State) : Agent := if engineEnabled s then .engine else .host

/-- The turn of the agent the schedule names, or of the default agent where the schedule is at its end. -/
def scheduledTurn (s : State) : Result :=
  match s.sched with
  | [] => turn (defaultAgent s) s
  | a :: rest => turn a { s with sched := rest }

/-- The host's next turn is now, and its access is a write of the word to CMD (40_commands.md R110). -/
def issueNext (w : Word) (s : State) : State :=
  { s with sched := .host :: s.sched, hostAccesses := .write 0x08 .w32 w :: s.hostAccesses }

end Sys2Proof.Machine
end

