-- ==== Sys2Proof/Machine/Step.lean ====
section
/-! DEFINITION. The step of the machine, and a command placed where the next step takes it up (log entries 1 and 8). -/

namespace Sys2Proof.Machine

/-- One step: one turn of one agent (00_scope.md R17, 20_memory.md R80). -/
def step (s : State) : Host.Outcome State Fault Refusal := scheduledTurn s

/-- `s` with the host about to write the command word to CMD. The block fetches nothing (10_state.md R40); the word a
step runs is the one the host writes (log entry 8). -/
def State.withFetchWord (s : State) (nbits w : Nat) : State := issueNext (tableWord nbits w) s

end Sys2Proof.Machine
end

