-- ==== Sys2Proof/Machine/HostProgram.lean ====
section
/-! DEFINITION. The host-program syntax and its pseudo-instructions as lists of bus accesses (30_encoding.md R97, R98). -/

namespace Sys2Proof.Machine

/-- `wr REG, v` (30_encoding.md R97). -/
def wr (r : Reg) (v : Word) : Access := .write (regOffset r : Int) .w32 v

/-- `rd REG` (30_encoding.md R97). -/
def rd (r : Reg) : Access := .read (regOffset r : Int) .w32

/-- `cmd <MNEMONIC>`, for FRAME with the TAGLEN given (30_encoding.md R97). -/
def cmd (i : Instr) : Access := wr .cmd (encode i)

/-- `push b0, ..., bk` (30_encoding.md R98). -/
def push (bytes : List Byte) : List Access := bytes.map fun b => wr .inData (b.setWidth 32)

/-- `settag "c0c1c2c3"` (30_encoding.md R98, 20_memory.md R74). -/
def settag (c0 c1 c2 c3 : Byte) : Access := wr .tag (c0 ++ c1 ++ c2 ++ c3)

/-- `setbuflen n` (30_encoding.md R98). -/
def setbuflen (n : BitVec 64) : List Access :=
  [wr .bufLenLo (n.extractLsb' 0 32), wr .bufLenHi (n.extractLsb' 32 32)]

/-- `clear` (30_encoding.md R98). -/
def clear : Access := wr .status 0x0000000E

/-- `srst` (30_encoding.md R98). -/
def srst : Access := wr .ctrl 0x80000000

/-- `wait_idle` whose host loop reads STATUS `k` times (30_encoding.md R98: the loop is the host's). -/
def waitIdle (k : Nat) : List Access := List.replicate k (rd .status)

/-- `pop n` whose host loop reads OUT_DATA `k` times in all (30_encoding.md R98). -/
def pop (k : Nat) : List Access := List.replicate k (rd .outData)

end Sys2Proof.Machine
end

