-- ==== Sys2Proof/Safety.lean ====
section
/-! DEFINITION. What claims are stated in: the invariant of the machine, and how much of its work a running command
still has to do, as input to take, output to give, checksum to reach and engine steps to make. -/

namespace Sys2Proof.Machine

/-- `k` steps of the machine, stopping at the first refusal. -/
def runSteps : Nat → State → Result
  | 0, s => .next s
  | k + 1, s =>
    match step s with
    | .next t => runSteps k t
    | .fault r => .fault r
    | .refused r => .refused r

/-- What the phase says of the counters (10_state.md R40; 43_packer.md R183, R187, R191). -/
abbrev PhaseOk (s : State) : Prop :=
  (s.phase = .crcRun → 1 ≤ s.cnt ∧ s.cnt < 2 ^ 32) ∧
  (s.phase = .frPay → 1 ≤ s.cnt ∧ s.cnt ≤ s.sLen.toNat) ∧
  (s.phase = .pkSel → 1 ≤ s.rows ∧ 1 ≤ s.sW.toNat ∧ s.sW.toNat ≤ 0x7FFFFFFF) ∧
  (s.phase = .pkRow → 1 ≤ s.rows ∧ 1 ≤ s.sW.toNat ∧ s.sW.toNat ≤ 0x7FFFFFFF ∧
    1 ≤ s.cnt ∧ s.cnt ≤ rowSamples s)

/-- The ranges of the state tuple, FIFO capacities among them (10_state.md R21). -/
abbrev RangesOk (s : State) : Prop :=
  s.inq.length ≤ s.params.inDepth ∧ s.outq.length ≤ s.params.outDepth ∧
  s.cnt < 2 ^ 64 ∧ s.rows < 2 ^ 31

/-- The error record: code 0 exactly where no rejection stands, and never 7 to 15 (60_exceptions.md R200). -/
abbrev ErrorOk (s : State) : Prop := (s.err = false ↔ s.errCode = 0) ∧ s.errCode.toNat ≤ 6

/-- The invariant every step keeps. -/
abbrev Inv (s : State) : Prop := s.params.Legal ∧ RangesOk s ∧ ErrorOk s ∧ PhaseOk s

/-- The input bytes the running command has still to take. -/
def remainingInput (s : State) : Nat :=
  match s.phase with
  | .crcRun => s.cnt
  | .frLen | .frTag => s.sLen.toNat
  | .frPay => s.cnt
  | .pkSel => s.rows * rowSamples s
  | .pkRow => s.cnt + (s.rows - 1) * rowSamples s
  | .idle | .frCrc => 0

/-- The bytes the running command has still to put through the CRC, where the input to come is `input`. -/
def remainingCrcBytes (s : State) (input : List Byte) : List Byte :=
  match s.phase with
  | .crcRun => input.take s.cnt
  | .frLen => be32 s.sTag ++ input.take s.sLen.toNat
  | .frTag => (be32 s.sTag).drop s.idx ++ input.take s.sLen.toNat
  | .frPay => input.take s.cnt
  | .idle | .frCrc | .pkSel | .pkRow => []

/-- What CRC_STATE will be when the running command completes, where the input to come is `input`. -/
def finalCrc (s : State) (input : List Byte) : Word := crcRun s.crcState (remainingCrcBytes s input)

/-- The bytes the running command has still to emit, where the input to come is `input`. -/
def remainingOutput (s : State) (input : List Byte) : List Byte :=
  match s.phase with
  | .frLen =>
    (be32 s.sLen).drop s.idx ++ be32 s.sTag ++ input.take s.sLen.toNat ++ be32 (~~~ finalCrc s input)
  | .frTag => (be32 s.sTag).drop s.idx ++ input.take s.sLen.toNat ++ be32 (~~~ finalCrc s input)
  | .frPay => input.take s.cnt ++ be32 (~~~ finalCrc s input)
  | .frCrc => (be32 (~~~ s.crcState)).drop s.idx
  | .pkSel => packBytes input s.sW.toNat s.rows s.sC.count
  | .pkRow => input.take s.cnt ++ packBytes (input.drop s.cnt) s.sW.toNat (s.rows - 1) s.sC.count
  | .idle | .crcRun => []

/-- The engine steps the running command has still to take (40_commands.md R119). -/
def remainingSteps (s : State) : Nat :=
  match s.phase with
  | .idle => 0
  | .crcRun => s.cnt
  | .frLen => (4 - s.idx.val) + 4 + s.sLen.toNat + 4
  | .frTag => (4 - s.idx.val) + s.sLen.toNat + 4
  | .frPay => s.cnt + 4
  | .frCrc => 4 - s.idx.val
  | .pkSel => s.rows * (1 + rowSamples s)
  | .pkRow => s.cnt + (s.rows - 1) * (1 + rowSamples s)

/-- `s` with the operand registers of `t`, which the host may rewrite while a command runs (20_memory.md R84). -/
def withOperandsOf (t s : State) : State :=
  { s with
    len := t.len, tag := t.tag, width := t.width, height := t.height, colorType := t.colorType
    bufLenLo := t.bufLenLo, bufLenHi := t.bufLenHi }

/-- The operand registers of `t` are those of `s` (10_state.md section 2). -/
abbrev SameOperands (s t : State) : Prop :=
  t.len = s.len ∧ t.tag = s.tag ∧ t.width = s.width ∧ t.height = s.height ∧
  t.colorType = s.colorType ∧ t.bufLenLo = s.bufLenLo ∧ t.bufLenHi = s.bufLenHi

/-- The engine of `t` stands where that of `s` stands: same phase, counters, snapshots and CRC register
(10_state.md R40, R42). -/
abbrev SameEngine (s t : State) : Prop :=
  t.phase = s.phase ∧ t.cnt = s.cnt ∧ t.idx = s.idx ∧ t.rows = s.rows ∧ t.sLen = s.sLen ∧ t.sTag = s.sTag ∧
  t.sW = s.sW ∧ t.sC = s.sC ∧ t.crcState = s.crcState

/-- What lies outside the block is the same in both: the configuration, the schedule, the accesses to come, and the
values the host has read. -/
abbrev SameOutside (s t : State) : Prop :=
  t.params = s.params ∧ t.sched = s.sched ∧ t.hostAccesses = s.hostAccesses ∧ t.readLog = s.readLog

/-- Who moves in the coming step. -/
def comingAgent (s : State) : Agent :=
  match s.sched with
  | [] => defaultAgent s
  | a :: _ => a

/-- The access the coming step makes, if it makes one. -/
def comingAccess (s : State) : Option Access :=
  if comingAgent s = .host then s.hostAccesses.head? else none

/-- The register and value the coming step writes, if it writes one. -/
def comingWrite (s : State) : Option (Reg × Word) :=
  match comingAccess s with
  | some (.write offset width v) => (accessReg offset width).map fun r => (r, v)
  | _ => none

/-- The register the coming step reads, if it reads one. -/
def comingRead (s : State) : Option Reg :=
  match comingAccess s with
  | some (.read offset width) => accessReg offset width
  | _ => none

/-- The coming step resets the block, by its input or by CTRL.SRST (70_reset_and_hazards.md R230, R232). -/
def resetsNext (s : State) : Bool :=
  (comingAgent s == .resetInput) ||
  (match comingWrite s with
    | some (.ctrl, v) => v.getLsbD 31
    | _ => false)

/-- The bytes the coming step appends to INQ (20_memory.md R70). -/
def pushedNext (s : State) : List Byte :=
  match comingWrite s with
  | some (.inData, v) => if s.inq.length < s.params.inDepth then [v.extractLsb' 0 8] else []
  | _ => []

/-- The bytes the coming step hands to the host from OUTQ (20_memory.md R71). -/
def poppedNext (s : State) : List Byte :=
  match comingRead s with
  | some .outData => s.outq.take 1
  | _ => []

/-- `WhileBusy s pushed popped t`: some run of the machine leads from `s` to `t` with a command running before each
of its steps and no reset among them; the host pushes `pushed` and pops `popped` in it. The steps are those of any
schedule (20_memory.md R80). -/
inductive WhileBusy : State → List Byte → List Byte → State → Prop where
  | refl (s : State) : WhileBusy s [] [] s
  | step {s u t : State} {pushed popped : List Byte} (busy_s : busy s = true) (no_reset : resetsNext s = false)
      (moves : step s = .next u) (rest : WhileBusy u pushed popped t) :
      WhileBusy s (pushedNext s ++ pushed) (poppedNext s ++ popped) t

end Sys2Proof.Machine
end

