-- ==== Sys2Proof/Certificates/Slice0/Obligations.lean ====
section
/-! DEFINITION. The statements for the provers, each a claim of a numbered rule of the spec or of what follows from
several of them. OBLIGATIONS.json lists them. -/

open Sys2Proof Sys2Proof.Machine

/-! ## Encoding -/

/-- 30_encoding.md R94: every 32-bit word decodes as the case analysis of the rule says, and reads only OPCODE and,
for FRAME, TAGLEN. -/
def Obligations.DecodeFollowsTheOpcodeMap : Prop :=
  ∀ w : Word,
    (w.extractLsb' 0 8 = 0x00#8 → decode w = .ok .nop) ∧
    (w.extractLsb' 0 8 = 0x01#8 → decode w = .ok .crcInit) ∧
    (w.extractLsb' 0 8 = 0x02#8 → decode w = .ok .crcUpdate) ∧
    (w.extractLsb' 0 8 = 0x03#8 → decode w = .ok .crcCalc) ∧
    (w.extractLsb' 0 8 = 0x04#8 → decode w = .ok (.frame (w.extractLsb' 8 3).toNat)) ∧
    (w.extractLsb' 0 8 = 0x05#8 → decode w = .ok .pack) ∧
    (6 ≤ (w.extractLsb' 0 8).toNat → decode w = .error (.reservedOpcode (w.extractLsb' 0 8)))

/-- 30_encoding.md R93, R96: the canonical words and the rules' example words, written out, decode to their commands. -/
def Obligations.WrittenOutWordsDecode : Prop :=
  decode 0b00000000000000000000000000000000#32 = .ok .nop ∧
  decode 0b00000000000000000000000000000001#32 = .ok .crcInit ∧
  decode 0b00000000000000000000000000000010#32 = .ok .crcUpdate ∧
  decode 0b00000000000000000000000000000011#32 = .ok .crcCalc ∧
  decode 0b00000000000000000000010000000100#32 = .ok (.frame 4) ∧
  decode 0b00000000000000000000000000000101#32 = .ok .pack ∧
  decode 0xFFFFF800#32 = .ok .nop ∧
  decode 0x00000702#32 = .ok .crcUpdate ∧
  decode 0xFFFFFC04#32 = .ok (.frame 4) ∧
  decode 0x00000304#32 = .ok (.frame 3)

/-- Decoding the encoding of a well-formed command gives the command back, TAGLEN at each of its values included. -/
def Obligations.DecodeUndoesEncode : Prop :=
  ∀ i : Instr, i.wellFormed = true → decode (encode i) = .ok i

/-- A decoded command is well formed, and its encoding is the word with the ignored bits cleared: bits 31:11 always,
bits 10:8 outside FRAME (30_encoding.md R91, R94). -/
def Obligations.EncodeClearsOnlyIgnoredBits : Prop :=
  ∀ (w : Word) (i : Instr), decode w = .ok i →
    i.wellFormed = true ∧
    ((w.extractLsb' 0 8 = 0x04#8 ∧ encode i = w &&& 0x000007FF#32) ∨
     (w.extractLsb' 0 8 ≠ 0x04#8 ∧ encode i = w &&& 0x000000FF#32))

/-! ## A step runs the decoded command -/

/-- 40_commands.md R110, R111: where the next step is a host write of CMD and the word decodes to a command, the step is
the execution of that command in the state with the turn and the access taken off. -/
def Obligations.StepRunsTheDecodedCommand : Prop :=
  ∀ (s : State) (w : Word) (i : Instr) (agents : List Agent) (accesses : List Access),
    decode w = .ok i → s.hostAccesses = .write 0x08 .w32 w :: accesses →
    (s.sched = .host :: agents →
      step s = exec i { s with sched := agents, hostAccesses := accesses }) ∧
    (s.sched = [] → engineEnabled s = false →
      step s = exec i { s with hostAccesses := accesses })

/-- The step after `withFetchWord` runs the command of the word in the state itself (log entry 8). -/
def Obligations.FetchWordIsRunByTheNextStep : Prop :=
  ∀ (s : State) (w : Word) (i : Instr), decode w = .ok i →
    decodeTableWord 32 w.toNat = some i ∧ step (s.withFetchWord 32 w.toNat) = exec i s

/-- An engine turn of the schedule is the engine's step, and a turn of the reset input is a reset
(00_scope.md R17, 70_reset_and_hazards.md R230). -/
def Obligations.StepTakesTheScheduledTurn : Prop :=
  ∀ (s : State) (agents : List Agent),
    (s.sched = .engine :: agents → step s = .next (engineStep { s with sched := agents })) ∧
    (s.sched = .resetInput :: agents → step s = .next (resetBlock { s with sched := agents })) ∧
    (s.sched = [] → engineEnabled s = true → step s = .next (engineStep s))

/-! ## Issuing commands -/

/-- 40_commands.md R125: an idle block completes NOP in the issuing step, and DONE is all that changes. -/
def Obligations.NopSetsDoneOnly : Prop :=
  ∀ s : State, s.phase = .idle → exec .nop s = .next { s with done := true }

/-- 41_checksum.md R145: an idle block completes CRC_INIT in the issuing step; CRC_STATE and DONE are all that change. -/
def Obligations.CrcInitSetsTheInitialRegister : Prop :=
  ∀ s : State, s.phase = .idle →
    exec .crcInit s = .next { s with crcState := 0xFFFFFFFF#32, done := true }

/-- 41_checksum.md R146: an idle block accepts CRC_UPDATE with the CRC register as it is; LEN = 0 completes at once. -/
def Obligations.CrcUpdateStartsFromTheRegister : Prop :=
  ∀ s : State, s.phase = .idle →
    (s.len ≠ 0 →
      exec .crcUpdate s = .next { s with done := false, cnt := s.len.toNat, phase := .crcRun }) ∧
    (s.len = 0 → exec .crcUpdate s = .next { s with done := true, cnt := 0 })

/-- 41_checksum.md R147: an idle block accepts CRC_CALC with a fresh CRC register; LEN = 0 completes at once. -/
def Obligations.CrcCalcStartsFromAFreshRegister : Prop :=
  ∀ s : State, s.phase = .idle →
    (s.len ≠ 0 →
      exec .crcCalc s = .next
        { s with done := false, crcState := 0xFFFFFFFF#32, cnt := s.len.toNat, phase := .crcRun }) ∧
    (s.len = 0 → exec .crcCalc s = .next { s with done := true, crcState := 0xFFFFFFFF#32, cnt := 0 })

/-- 42_framer.md R167: an idle block accepts FRAME with TAGLEN 4 and starts it. -/
def Obligations.FrameStartsWithASnapshot : Prop :=
  ∀ s : State, s.phase = .idle →
    exec (.frame 4) s = .next
      { s with
        done := false, sLen := s.len, sTag := s.tag, crcState := 0xFFFFFFFF#32, idx := 0, phase := .frLen }

/-- 42_framer.md R166, 40_commands.md R113: an idle block rejects FRAME with any other TAGLEN with code 2, and nothing
else changes. -/
def Obligations.FrameRejectsOtherTagLengths : Prop :=
  ∀ (s : State) (taglen : Nat), s.phase = .idle → taglen ≠ 4 →
    exec (.frame taglen) s = .next { s with err := true, errCode := 2 }

/-- 43_packer.md R182, R186: an idle block accepts PACK where colour type, dimensions and declared length agree. -/
def Obligations.PackStartsWithASnapshot : Prop :=
  ∀ s : State, s.phase = .idle →
    1 ≤ s.width.toNat → s.width.toNat ≤ 0x7FFFFFFF → 1 ≤ s.height.toNat → s.height.toNat ≤ 0x7FFFFFFF →
    (s.colorType = 2 →
      s.bufLenHi.toNat * 2 ^ 32 + s.bufLenLo.toNat = s.width.toNat * s.height.toNat * 3 →
      exec .pack s = .next
        { s with done := false, sW := s.width, sC := .rgb, rows := s.height.toNat, phase := .pkSel }) ∧
    (s.colorType = 6 →
      s.bufLenHi.toNat * 2 ^ 32 + s.bufLenLo.toNat = s.width.toNat * s.height.toNat * 4 →
      exec .pack s = .next
        { s with done := false, sW := s.width, sC := .rgba, rows := s.height.toNat, phase := .pkSel })

/-- 43_packer.md R183: the first failing check of an idle block's PACK decides the code, and nothing but the error
record changes. -/
def Obligations.PackChecksInOrder : Prop :=
  ∀ s : State, s.phase = .idle →
    (s.colorType ≠ 2 → s.colorType ≠ 6 → exec .pack s = .next { s with err := true, errCode := 3 }) ∧
    ((s.colorType = 2 ∨ s.colorType = 6) →
      (s.width.toNat = 0 ∨ 0x7FFFFFFF < s.width.toNat ∨ s.height.toNat = 0 ∨ 0x7FFFFFFF < s.height.toNat) →
      exec .pack s = .next { s with err := true, errCode := 4 }) ∧
    (∀ channels : Nat, (s.colorType = 2 ∧ channels = 3 ∨ s.colorType = 6 ∧ channels = 4) →
      1 ≤ s.width.toNat → s.width.toNat ≤ 0x7FFFFFFF → 1 ≤ s.height.toNat → s.height.toNat ≤ 0x7FFFFFFF →
      s.bufLenHi.toNat * 2 ^ 32 + s.bufLenLo.toNat ≠ s.width.toNat * s.height.toNat * channels →
      exec .pack s = .next { s with err := true, errCode := 1 })

/-- 40_commands.md R111, R113, 60_exceptions.md R204: while a command runs, every command word, the reserved ones
included, is rejected with code 6, and nothing else changes. -/
def Obligations.BusyRejectsEveryCommand : Prop :=
  ∀ s : State, s.phase ≠ .idle →
    (∀ i : Instr, exec i s = .next { s with err := true, errCode := 6 }) ∧
    (∀ w : Word, issue w s = .next { s with err := true, errCode := 6 })

/-- 30_encoding.md R95: an idle block rejects every word with OPCODE 0x06 to 0xFF with code 5, and nothing else changes. -/
def Obligations.ReservedOpcodesRejected : Prop :=
  ∀ (s : State) (w : Word), s.phase = .idle → 6 ≤ (w.extractLsb' 0 8).toNat →
    issue w s = .next { s with err := true, errCode := 5 }

/-- 40_commands.md R112 to R114, R116: every issued word is accepted or rejected in the issuing step; a rejection changes
the error record only, and an acceptance leaves it alone and is running or done. -/
def Obligations.EveryWordAcceptedOrRejected : Prop :=
  ∀ (s : State) (w : Word), ∃ t : State, issue w s = .next t ∧
    ((∃ code : BitVec 4, 1 ≤ code.toNat ∧ code.toNat ≤ 6 ∧ t = { s with err := true, errCode := code }) ∨
     (s.phase = .idle ∧ t.err = s.err ∧ t.errCode = s.errCode ∧
       ((t.phase = .idle ∧ t.done = true) ∨ (t.phase ≠ .idle ∧ t.done = false))))

/-- The frame of the issuing step of all six commands: no byte moves, no operand register, enable, overflow flag or
configuration changes; CRC_STATE changes for CRC_INIT, CRC_CALC and FRAME only; every register of the window but STATUS,
ERR_CODE, CRC_STATE and CRC_RESULT reads as before. -/
def Obligations.IssueFrame : Prop :=
  ∀ (i : Instr) (s t : State), exec i s = .next t →
    t.inq = s.inq ∧ t.outq = s.outq ∧ SameOperands s t ∧ SameOutside s t ∧
    t.ieDone = s.ieDone ∧ t.ieErr = s.ieErr ∧ t.inOvf = s.inOvf ∧
    ((i = .nop ∨ i = .crcUpdate ∨ i = .pack) → t.crcState = s.crcState) ∧
    (∀ r : Reg, r ≠ .status → r ≠ .errCode → r ≠ .crcState → r ≠ .crcResult → regValue r t = regValue r s)

/-! ## Engine steps -/

/-- 41_checksum.md R148. -/
def Obligations.CrcRunStepAbsorbsAByte : Prop :=
  ∀ s : State, s.phase = .crcRun →
    (s.inq = [] → engineStep s = s) ∧
    (∀ (b : Byte) (rest : List Byte), s.inq = b :: rest →
      (2 ≤ s.cnt →
        engineStep s = { s with inq := rest, crcState := crcByte s.crcState b, cnt := s.cnt - 1 }) ∧
      (s.cnt = 1 →
        engineStep s =
          { s with inq := rest, crcState := crcByte s.crcState b, cnt := 0, phase := .idle, done := true }))

/-- 42_framer.md R168. -/
def Obligations.FrLenStepEmitsALengthByte : Prop :=
  ∀ s : State, s.phase = .frLen →
    (s.params.outDepth ≤ s.outq.length → engineStep s = s) ∧
    (s.outq.length < s.params.outDepth →
      (s.idx = 0 → engineStep s = { s with outq := s.outq ++ [s.sLen.extractLsb' 24 8], idx := 1 }) ∧
      (s.idx = 1 → engineStep s = { s with outq := s.outq ++ [s.sLen.extractLsb' 16 8], idx := 2 }) ∧
      (s.idx = 2 → engineStep s = { s with outq := s.outq ++ [s.sLen.extractLsb' 8 8], idx := 3 }) ∧
      (s.idx = 3 →
        engineStep s = { s with outq := s.outq ++ [s.sLen.extractLsb' 0 8], idx := 0, phase := .frTag }))

/-- 42_framer.md R169. -/
def Obligations.FrTagStepEmitsATagByte : Prop :=
  ∀ s : State, s.phase = .frTag →
    (s.params.outDepth ≤ s.outq.length → engineStep s = s) ∧
    (∀ b : Byte, s.outq.length < s.params.outDepth →
      (s.idx = 0 → b = s.sTag.extractLsb' 24 8 →
        engineStep s = { s with outq := s.outq ++ [b], crcState := crcByte s.crcState b, idx := 1 }) ∧
      (s.idx = 1 → b = s.sTag.extractLsb' 16 8 →
        engineStep s = { s with outq := s.outq ++ [b], crcState := crcByte s.crcState b, idx := 2 }) ∧
      (s.idx = 2 → b = s.sTag.extractLsb' 8 8 →
        engineStep s = { s with outq := s.outq ++ [b], crcState := crcByte s.crcState b, idx := 3 }) ∧
      (s.idx = 3 → b = s.sTag.extractLsb' 0 8 → s.sLen = 0 →
        engineStep s =
          { s with outq := s.outq ++ [b], crcState := crcByte s.crcState b, idx := 0, phase := .frCrc }) ∧
      (s.idx = 3 → b = s.sTag.extractLsb' 0 8 → s.sLen ≠ 0 →
        engineStep s =
          { s with
            outq := s.outq ++ [b], crcState := crcByte s.crcState b, idx := 0, cnt := s.sLen.toNat
            phase := .frPay }))

/-- 42_framer.md R170. -/
def Obligations.FrPayStepPassesAByteThrough : Prop :=
  ∀ s : State, s.phase = .frPay →
    (s.inq = [] ∨ s.params.outDepth ≤ s.outq.length → engineStep s = s) ∧
    (∀ (b : Byte) (rest : List Byte), s.inq = b :: rest → s.outq.length < s.params.outDepth →
      (2 ≤ s.cnt →
        engineStep s =
          { s with inq := rest, outq := s.outq ++ [b], crcState := crcByte s.crcState b, cnt := s.cnt - 1 }) ∧
      (s.cnt = 1 →
        engineStep s =
          { s with
            inq := rest, outq := s.outq ++ [b], crcState := crcByte s.crcState b, cnt := 0, idx := 0
            phase := .frCrc }))

/-- 42_framer.md R171. The value IDX is left with after the last byte is not stated here (log entry 4). -/
def Obligations.FrCrcStepEmitsAChecksumByte : Prop :=
  ∀ s : State, s.phase = .frCrc →
    (s.params.outDepth ≤ s.outq.length → engineStep s = s) ∧
    (s.outq.length < s.params.outDepth →
      (s.idx = 0 →
        engineStep s = { s with outq := s.outq ++ [(~~~ s.crcState).extractLsb' 24 8], idx := 1 }) ∧
      (s.idx = 1 →
        engineStep s = { s with outq := s.outq ++ [(~~~ s.crcState).extractLsb' 16 8], idx := 2 }) ∧
      (s.idx = 2 →
        engineStep s = { s with outq := s.outq ++ [(~~~ s.crcState).extractLsb' 8 8], idx := 3 }) ∧
      (s.idx = 3 → ∃ j : Fin 4,
        engineStep s =
          { s with
            outq := s.outq ++ [(~~~ s.crcState).extractLsb' 0 8], idx := j, phase := .idle, done := true }))

/-- 43_packer.md R187. -/
def Obligations.PkSelStepEmitsTheFilterByte : Prop :=
  ∀ s : State, s.phase = .pkSel →
    (s.params.outDepth ≤ s.outq.length → engineStep s = s) ∧
    (s.outq.length < s.params.outDepth →
      (s.sC = .rgb →
        engineStep s = { s with outq := s.outq ++ [0x00#8], cnt := s.sW.toNat * 3, phase := .pkRow }) ∧
      (s.sC = .rgba →
        engineStep s = { s with outq := s.outq ++ [0x00#8], cnt := s.sW.toNat * 4, phase := .pkRow }))

/-- 43_packer.md R188. -/
def Obligations.PkRowStepCopiesASample : Prop :=
  ∀ s : State, s.phase = .pkRow →
    (s.inq = [] ∨ s.params.outDepth ≤ s.outq.length → engineStep s = s) ∧
    (∀ (b : Byte) (rest : List Byte), s.inq = b :: rest → s.outq.length < s.params.outDepth →
      (2 ≤ s.cnt → engineStep s = { s with inq := rest, outq := s.outq ++ [b], cnt := s.cnt - 1 }) ∧
      (s.cnt = 1 → 2 ≤ s.rows →
        engineStep s =
          { s with inq := rest, outq := s.outq ++ [b], cnt := 0, rows := s.rows - 1, phase := .pkSel }) ∧
      (s.cnt = 1 → s.rows = 1 →
        engineStep s =
          { s with inq := rest, outq := s.outq ++ [b], cnt := 0, rows := 0, phase := .idle, done := true }))

/-- 40_commands.md R117, R118: with no command, no input byte it needs, or no room it needs, the engine waits and
changes nothing; with its needs met it makes progress. -/
def Obligations.EngineWaitsExactlyWhenItsNeedsAreUnmet : Prop :=
  ∀ s : State,
    (s.phase = .idle → engineStep s = s) ∧
    ((s.phase = .crcRun ∨ s.phase = .frPay ∨ s.phase = .pkRow) → s.inq = [] → engineStep s = s) ∧
    ((s.phase = .frLen ∨ s.phase = .frTag ∨ s.phase = .frCrc ∨ s.phase = .pkSel ∨ s.phase = .frPay ∨
        s.phase = .pkRow) → s.params.outDepth ≤ s.outq.length → engineStep s = s) ∧
    (s.phase ≠ .idle →
      ((s.phase = .crcRun ∨ s.phase = .frPay ∨ s.phase = .pkRow) → s.inq ≠ []) →
      (s.phase ≠ .crcRun → s.outq.length < s.params.outDepth) →
      engineStep s ≠ s)

/-- The frame of the engine's step (10_state.md R28, R33; 40_commands.md R113; 43_packer.md R185): it writes no operand
register, enable, error record, overflow flag or snapshot; CRC_STATE changes only in CRC_RUN, FR_TAG and FR_PAY; input
is only taken at the head and output only added at the tail, at most one byte each. -/
def Obligations.EngineStepFrame : Prop :=
  ∀ s : State,
    SameOperands s (engineStep s) ∧ SameOutside s (engineStep s) ∧
    (engineStep s).ieDone = s.ieDone ∧ (engineStep s).ieErr = s.ieErr ∧
    (engineStep s).err = s.err ∧ (engineStep s).errCode = s.errCode ∧ (engineStep s).inOvf = s.inOvf ∧
    (engineStep s).sLen = s.sLen ∧ (engineStep s).sTag = s.sTag ∧
    (engineStep s).sW = s.sW ∧ (engineStep s).sC = s.sC ∧
    ((s.phase = .idle ∨ s.phase = .frLen ∨ s.phase = .frCrc ∨ s.phase = .pkSel ∨ s.phase = .pkRow) →
      (engineStep s).crcState = s.crcState) ∧
    ((engineStep s).inq = s.inq ∨ ∃ b : Byte, s.inq = b :: (engineStep s).inq) ∧
    ((engineStep s).outq = s.outq ∨ ∃ b : Byte, (engineStep s).outq = s.outq ++ [b]) ∧
    ((engineStep s).done = s.done ∨ ((engineStep s).done = true ∧ (engineStep s).phase = .idle))

/-- 20_memory.md R84: the operand registers never reach the running command: rewriting them before or after an engine
step gives the same state. -/
def Obligations.OperandRegistersDoNotReachTheEngine : Prop :=
  ∀ s t : State, engineStep (withOperandsOf t s) = withOperandsOf t (engineStep s)

/-! ## What a command computes -/

/-- Each engine step keeps the result of the running command: the bytes in OUTQ with those still to come, and the
checksum to come, for whatever input the host pushes later. -/
def Obligations.EngineStepKeepsTheResult : Prop :=
  ∀ (s : State) (later : List Byte), Inv s →
    (engineStep s).outq ++ remainingOutput (engineStep s) ((engineStep s).inq ++ later) =
      s.outq ++ remainingOutput s (s.inq ++ later) ∧
    finalCrc (engineStep s) ((engineStep s).inq ++ later) = finalCrc s (s.inq ++ later)

/-- 40_commands.md R119: an accepted command starts with LEN, 12 + LEN or H · (1 + W · C) steps to go, every step the
engine takes is one less, and no steps to go means idle. -/
def Obligations.EngineStepsAreCounted : Prop :=
  (∀ s : State, Inv s → engineEnabled s = true → remainingSteps (engineStep s) + 1 = remainingSteps s) ∧
  (∀ s : State, Inv s → (remainingSteps s = 0 ↔ s.phase = .idle)) ∧
  (∀ s t : State, s.phase = .idle → (exec .crcUpdate s = .next t ∨ exec .crcCalc s = .next t) →
    remainingSteps t = s.len.toNat) ∧
  (∀ s t : State, s.phase = .idle → exec (.frame 4) s = .next t → remainingSteps t = 12 + s.len.toNat) ∧
  (∀ s t : State, exec .pack s = .next t → s.phase = .idle → t.phase = .pkSel →
    remainingSteps t = s.height.toNat * (1 + s.width.toNat * t.sC.count))

/-- 41_checksum.md R146, R147: an idle block whose INQ holds the LEN bytes carries CRC_UPDATE and CRC_CALC to completion
in LEN engine steps; CRC_STATE is then crc_run over those bytes. -/
def Obligations.ChecksumRunsToCompletion : Prop :=
  ∀ (s : State) (bytes rest : List Byte), s.phase = .idle → s.sched = [] →
    s.inq = bytes ++ rest → bytes.length = s.len.toNat →
    (∃ t : State, exec .crcUpdate s = .next t ∧
      runSteps s.len.toNat t =
        .next { s with inq := rest, crcState := crcRun s.crcState bytes, cnt := 0, done := true }) ∧
    (∃ t : State, exec .crcCalc s = .next t ∧
      runSteps s.len.toNat t =
        .next { s with inq := rest, crcState := crcRun 0xFFFFFFFF#32 bytes, cnt := 0, done := true })

/-- 42_framer.md R165, R172: an idle block whose INQ holds the LEN payload bytes and whose OUTQ has room carries FRAME to
completion in 12 + LEN engine steps, and the segment frame(TAG, payload) is in OUTQ. Of CNT and IDX only the existence of
a value is stated. -/
def Obligations.FrameRunsToCompletion : Prop :=
  ∀ (s : State) (payload rest : List Byte), s.phase = .idle → s.sched = [] →
    s.inq = payload ++ rest → payload.length = s.len.toNat →
    s.outq.length + (12 + s.len.toNat) ≤ s.params.outDepth →
    ∃ (t : State) (n : Nat) (j : Fin 4), exec (.frame 4) s = .next t ∧
      runSteps (12 + s.len.toNat) t =
        .next
          { s with
            inq := rest
            outq := s.outq ++ frameBytes (be32 s.tag) payload
            crcState := crcRun 0xFFFFFFFF#32 (be32 s.tag ++ payload)
            sLen := s.len, sTag := s.tag, cnt := n, idx := j, done := true }

/-- 43_packer.md R185, R189: an idle block whose checks pass, whose INQ holds the W · H · C samples and whose OUTQ has
room carries PACK to completion in H · (1 + W · C) engine steps; the packed rows are in OUTQ, CRC_STATE is untouched. -/
def Obligations.PackRunsToCompletion : Prop :=
  ∀ (s : State) (c : Channels) (samples rest : List Byte), s.phase = .idle → s.sched = [] →
    (s.colorType = 2 ∧ c = .rgb ∨ s.colorType = 6 ∧ c = .rgba) →
    1 ≤ s.width.toNat → s.width.toNat ≤ 0x7FFFFFFF → 1 ≤ s.height.toNat → s.height.toNat ≤ 0x7FFFFFFF →
    s.bufLenHi.toNat * 2 ^ 32 + s.bufLenLo.toNat = s.width.toNat * s.height.toNat * c.count →
    s.inq = samples ++ rest → samples.length = s.width.toNat * s.height.toNat * c.count →
    s.outq.length + s.height.toNat * (1 + s.width.toNat * c.count) ≤ s.params.outDepth →
    ∃ t : State, exec .pack s = .next t ∧
      runSteps (s.height.toNat * (1 + s.width.toNat * c.count)) t =
        .next
          { s with
            inq := rest
            outq := s.outq ++ packBytes samples s.width.toNat s.height.toNat c.count
            sW := s.width, sC := c, rows := 0, cnt := 0, done := true }

/-- 41_checksum.md R146, R147 with 20_memory.md R80: under every schedule of host and engine steps in which the command
is not reset, CRC_UPDATE and CRC_CALC end with crc_run over the first LEN bytes of what INQ held and the host pushed, and
the bytes beyond them stay in INQ. -/
def Obligations.ChecksumUnderEverySchedule : Prop :=
  ∀ (s t u : State) (pushed popped : List Byte), Inv s → s.phase = .idle →
    WhileBusy t pushed popped u → u.phase = .idle →
    (exec .crcUpdate s = .next t →
      s.len.toNat ≤ (s.inq ++ pushed).length ∧
      u.crcState = crcRun s.crcState ((s.inq ++ pushed).take s.len.toNat) ∧
      u.inq = (s.inq ++ pushed).drop s.len.toNat ∧ popped ++ u.outq = s.outq ∧ u.done = true) ∧
    (exec .crcCalc s = .next t →
      s.len.toNat ≤ (s.inq ++ pushed).length ∧
      ~~~ u.crcState = checksum ((s.inq ++ pushed).take s.len.toNat) ∧
      u.inq = (s.inq ++ pushed).drop s.len.toNat ∧ popped ++ u.outq = s.outq ∧ u.done = true)

/-- 42_framer.md R165 with 20_memory.md R80: under every schedule in which the command is not reset, the bytes the host
pops and those left in OUTQ are what OUTQ held and then frame(TAG, payload), with LEN and TAG as they were at acceptance
and the payload the first LEN bytes of what INQ held and the host pushed. -/
def Obligations.FrameUnderEverySchedule : Prop :=
  ∀ (s t u : State) (pushed popped : List Byte), Inv s → s.phase = .idle → exec (.frame 4) s = .next t →
    WhileBusy t pushed popped u → u.phase = .idle →
    s.len.toNat ≤ (s.inq ++ pushed).length ∧
    popped ++ u.outq = s.outq ++ frameBytes (be32 s.tag) ((s.inq ++ pushed).take s.len.toNat) ∧
    ~~~ u.crcState = checksum (be32 s.tag ++ (s.inq ++ pushed).take s.len.toNat) ∧
    u.inq = (s.inq ++ pushed).drop s.len.toNat ∧ u.done = true

/-- 43_packer.md R185 with 20_memory.md R80: under every schedule in which the command is not reset, the bytes the host
pops and those left in OUTQ are what OUTQ held and then pack of the first W · H · C bytes of what INQ held and the host
pushed, and CRC_STATE is untouched. -/
def Obligations.PackUnderEverySchedule : Prop :=
  ∀ (s t u : State) (pushed popped : List Byte), Inv s → s.phase = .idle → exec .pack s = .next t →
    t.phase = .pkSel → WhileBusy t pushed popped u → u.phase = .idle →
    s.width.toNat * s.height.toNat * t.sC.count ≤ (s.inq ++ pushed).length ∧
    popped ++ u.outq = s.outq ++
      packBytes ((s.inq ++ pushed).take (s.width.toNat * s.height.toNat * t.sC.count))
        s.width.toNat s.height.toNat t.sC.count ∧
    u.crcState = s.crcState ∧
    u.inq = (s.inq ++ pushed).drop (s.width.toNat * s.height.toNat * t.sC.count) ∧ u.done = true

/-- 40_commands.md R113, R122; 10_state.md R29; 20_memory.md R84: while a command runs, no host access but a reset
disturbs it. Bytes are added to INQ at the tail and taken from OUTQ at the head, at most one. -/
def Obligations.HostCannotDisturbARunningCommand : Prop :=
  ∀ (s t : State) (a : Access), busy s = true → hostAccess a s = .next t →
    (∀ v : Word, a = .write 0x00 .w32 v → v.getLsbD 31 = false) →
    SameEngine s t ∧ t.params = s.params ∧ t.done = (s.done && t.done) ∧
    (t.inq = s.inq ∨ ∃ b : Byte, t.inq = s.inq ++ [b]) ∧
    (t.outq = s.outq ∨ ∃ b : Byte, s.outq = b :: t.outq)

/-- 40_commands.md R122: a running command ends only by its last engine step or by a reset. -/
def Obligations.CommandsEndByCompletionOrReset : Prop :=
  ∀ s t : State, Inv s → busy s = true → step s = .next t → t.phase = .idle →
    (remainingSteps s = 1 ∧ t.done = true) ∨ resetsNext s = true

/-! ## The pure functions -/

/-- 41_checksum.md R142: the table form of crc_byte equals the bit form, for the table of crc_byte(0, n) and for the
literal table of the rule. -/
def Obligations.TableFormEqualsBitForm : Prop :=
  ∀ (c : Word) (b : Byte),
    crcTableEntry b = crcByte 0 b ∧
    crcByte c b = (c >>> 8) ^^^ crcByte 0 ((c ^^^ b.setWidth 32).extractLsb' 0 8) ∧
    crcByteLut c b = crcByte c b

/-- 41_checksum.md R141, R143, R144: the checksum of nothing, composition, and the check value. -/
def Obligations.ChecksumComposes : Prop :=
  checksum [] = 0x00000000#32 ∧
  (∀ (c : Word) (s1 s2 : List Byte), crcRun (crcRun c s1) s2 = crcRun c (s1 ++ s2)) ∧
  checksum [0x31, 0x32, 0x33, 0x34, 0x35, 0x36, 0x37, 0x38, 0x39] = 0xCBF43926#32

/-- 42_framer.md R160, R161, R172: a segment has 12 bytes more than its payload, begins with the payload's length, and its
last four bytes are the checksum of its tag and payload. -/
def Obligations.SegmentCarriesItsChecksum : Prop :=
  ∀ (tag payload : List Byte), tag.length = 4 →
    (frameBytes tag payload).length = 12 + payload.length ∧
    (frameBytes tag payload).take 4 = be32 (BitVec.ofNat 32 payload.length) ∧
    (frameBytes tag payload).drop (8 + payload.length) =
      be32 (checksum (((frameBytes tag payload).drop 4).take (4 + payload.length)))

/-- 43_packer.md R180, R184: packing adds one byte 0x00 a row, and taking byte y · (1 + W · C) out of each row y gives the
buffer back. -/
def Obligations.PackingIsLossless : Prop :=
  ∀ (p : List Byte) (w h c : Nat), p.length = w * h * c →
    (packBytes p w h c).length = h * (1 + w * c) ∧
    (∀ y < h, (packBytes p w h c)[y * (1 + w * c)]? = some 0x00#8) ∧
    ((List.range h).flatMap fun y => ((packBytes p w h c).drop (y * (1 + w * c) + 1)).take (w * c)) = p

/-- 43_packer.md R191: an accepted PACK's sample count and output length are below 2^64, and a row's sample count is at
most 0x1FFFFFFFC. -/
def Obligations.PackCountsFitSixtyFourBits : Prop :=
  ∀ (s : State) (c : Channels), checkPack s = .ok c →
    s.width.toNat * s.height.toNat * c.count ≤ 0xFFFFFFFC00000004 ∧
    s.height.toNat * (1 + s.width.toNat * c.count) ≤ 0xFFFFFFFC80000003 ∧
    3 ≤ s.width.toNat * c.count ∧ s.width.toNat * c.count ≤ 0x1FFFFFFFC ∧ s.height.toNat < 2 ^ 31

/-! ## The register window -/

/-- 20_memory.md R61, 00_scope.md R10: in a window placed at a legal BASE, the aligned 32-bit access of bus address
BASE + 4k with k below 16 reaches the register at offset 4k, each register at its own offset; an access wholly outside
BASE to BASE + 0x3F does not reach the block. -/
def Obligations.AddressesNameRegisters : Prop :=
  ∀ p : Params, p.Legal →
    (∀ r : Reg, accessReg (windowOffset p (p.base + regOffset r)) .w32 = some r ∧
      reachesBlock (windowOffset p (p.base + regOffset r)) .w32 = true) ∧
    (∀ address : Nat, p.base ≤ address → address < p.base + 64 → address % 4 = 0 →
      ∃ r : Reg, address = p.base + regOffset r ∧ accessReg (windowOffset p address) .w32 = some r) ∧
    (∀ (address : Nat) (width : Width),
      (address + widthBytes width ≤ p.base ∨ p.base + 64 ≤ address) →
      reachesBlock (windowOffset p address) width = false)

/-- 20_memory.md R61, R63: an access of the window that is not 32 bits wide, or whose offset is no multiple of 4, is
refused; an access outside the window changes nothing. -/
def Obligations.UnsupportedAccessesRefusedOutsideOnesIgnored : Prop :=
  ∀ (s : State) (offset : Int) (width : Width) (v : Word),
    (0 ≤ offset → offset < 64 → (width ≠ .w32 ∨ offset % 4 ≠ 0) →
      hostAccess (.read offset width) s = .refused .unsupportedAccess ∧
      hostAccess (.write offset width v) s = .refused .unsupportedAccess) ∧
    ((offset + widthBytes width ≤ 0 ∨ 64 ≤ offset) →
      hostAccess (.read offset width) s = .next s ∧ hostAccess (.write offset width v) s = .next s)

/-- 10_state.md R22 to R39 and 20_memory.md R65: a read of each register but OUT_DATA returns the value its rule gives and
changes nothing. -/
def Obligations.ReadsReturnTheRegisters : Prop :=
  ∀ s : State,
    hostAccess (.read 0x00 .w32) s = .next { s with readLog := ctrlWord s :: s.readLog } ∧
    hostAccess (.read 0x04 .w32) s = .next { s with readLog := statusWord s :: s.readLog } ∧
    hostAccess (.read 0x08 .w32) s = .next { s with readLog := 0 :: s.readLog } ∧
    hostAccess (.read 0x0C .w32) s = .next { s with readLog := s.errCode.setWidth 32 :: s.readLog } ∧
    hostAccess (.read 0x10 .w32) s = .next { s with readLog := s.len :: s.readLog } ∧
    hostAccess (.read 0x14 .w32) s = .next { s with readLog := s.tag :: s.readLog } ∧
    hostAccess (.read 0x18 .w32) s = .next { s with readLog := s.width :: s.readLog } ∧
    hostAccess (.read 0x1C .w32) s = .next { s with readLog := s.height :: s.readLog } ∧
    hostAccess (.read 0x20 .w32) s = .next { s with readLog := s.colorType.setWidth 32 :: s.readLog } ∧
    hostAccess (.read 0x24 .w32) s = .next { s with readLog := s.bufLenLo :: s.readLog } ∧
    hostAccess (.read 0x28 .w32) s = .next { s with readLog := s.bufLenHi :: s.readLog } ∧
    hostAccess (.read 0x2C .w32) s = .next { s with readLog := s.crcState :: s.readLog } ∧
    hostAccess (.read 0x30 .w32) s = .next { s with readLog := ~~~ s.crcState :: s.readLog } ∧
    hostAccess (.read 0x34 .w32) s = .next { s with readLog := 0 :: s.readLog } ∧
    hostAccess (.read 0x3C .w32) s = .next { s with readLog := fifoStatusWord s :: s.readLog }

/-- 10_state.md R31, R32, R39, 60_exceptions.md R210: the bits of STATUS, CTRL and FIFO_STATUS, reserved bits reading 0,
and STATUS.IRQ the interrupt function of the flags and enables. -/
def Obligations.StatusWordsHaveTheirBits : Prop :=
  ∀ s : State,
    ((statusWord s).getLsbD 0 = true ↔ s.phase ≠ .idle) ∧
    (statusWord s).getLsbD 1 = s.done ∧ (statusWord s).getLsbD 2 = s.err ∧
    (statusWord s).getLsbD 3 = s.inOvf ∧
    (statusWord s).getLsbD 4 = ((s.done && s.ieDone) || ((s.err || s.inOvf) && s.ieErr)) ∧
    (∀ k : Nat, 5 ≤ k → (statusWord s).getLsbD k = false) ∧
    (ctrlWord s).getLsbD 0 = s.ieDone ∧ (ctrlWord s).getLsbD 1 = s.ieErr ∧
    (∀ k : Nat, 2 ≤ k → (ctrlWord s).getLsbD k = false) ∧
    (Inv s → ((fifoStatusWord s).extractLsb' 0 16).toNat = s.inq.length ∧
      ((fifoStatusWord s).extractLsb' 16 16).toNat = s.outq.length)

/-- 20_memory.md R71: a read of OUT_DATA returns and removes the head byte with VALID = 1, or 0 where OUTQ is empty. -/
def Obligations.PopReturnsAndRemovesTheHead : Prop :=
  ∀ (s : State) (b : Byte) (rest : List Byte),
    (s.outq = b :: rest →
      hostAccess (.read 0x38 .w32) s =
        .next { s with outq := rest, readLog := (0#23 ++ 1#1 ++ b) :: s.readLog }) ∧
    (s.outq = [] → hostAccess (.read 0x38 .w32) s = .next { s with readLog := 0 :: s.readLog })

/-- 20_memory.md R70: a write of IN_DATA appends bits 7:0 to INQ, or discards the byte and sets IN_OVF where INQ is full,
whatever command runs. -/
def Obligations.PushAppendsOrOverflows : Prop :=
  ∀ (s : State) (v : Word),
    (s.inq.length < s.params.inDepth →
      hostAccess (.write 0x34 .w32 v) s = .next { s with inq := s.inq ++ [v.extractLsb' 0 8] }) ∧
    (s.params.inDepth ≤ s.inq.length →
      hostAccess (.write 0x34 .w32 v) s = .next { s with inOvf := true })

/-- 10_state.md R32, R35, 60_exceptions.md R209: a write of STATUS clears DONE, IN_OVF, and ERR with ERR_CODE, each where
its bit is written as 1, and nothing else. -/
def Obligations.StatusWriteClearsFlags : Prop :=
  ∀ (s : State) (v : Word),
    hostAccess (.write 0x04 .w32 v) s = .next
      { s with
        done := s.done && !v.getLsbD 1
        err := s.err && !v.getLsbD 2
        errCode := if v.getLsbD 2 then 0 else s.errCode
        inOvf := s.inOvf && !v.getLsbD 3 }

/-- 10_state.md R22 to R27, R29 to R31, R35, R38, R39; 20_memory.md R65: a write of an operand register stores its bits
at once, whether or not a command runs; CRC_STATE is written only while idle; a write of CTRL with bit 31 clear stores the
two enables; a write of a read-only register is ignored. -/
def Obligations.RegisterWritesStoreOrAreIgnored : Prop :=
  ∀ (s : State) (v : Word),
    (v.getLsbD 31 = false →
      hostAccess (.write 0x00 .w32 v) s =
        .next { s with ieDone := v.getLsbD 0, ieErr := v.getLsbD 1 }) ∧
    hostAccess (.write 0x10 .w32 v) s = .next { s with len := v } ∧
    hostAccess (.write 0x14 .w32 v) s = .next { s with tag := v } ∧
    hostAccess (.write 0x18 .w32 v) s = .next { s with width := v } ∧
    hostAccess (.write 0x1C .w32 v) s = .next { s with height := v } ∧
    hostAccess (.write 0x20 .w32 v) s = .next { s with colorType := v.extractLsb' 0 8 } ∧
    hostAccess (.write 0x24 .w32 v) s = .next { s with bufLenLo := v } ∧
    hostAccess (.write 0x28 .w32 v) s = .next { s with bufLenHi := v } ∧
    (s.phase = .idle → hostAccess (.write 0x2C .w32 v) s = .next { s with crcState := v }) ∧
    (s.phase ≠ .idle → hostAccess (.write 0x2C .w32 v) s = .next s) ∧
    hostAccess (.write 0x0C .w32 v) s = .next s ∧ hostAccess (.write 0x30 .w32 v) s = .next s ∧
    hostAccess (.write 0x38 .w32 v) s = .next s ∧ hostAccess (.write 0x3C .w32 v) s = .next s

/-! ## Reset -/

/-- 70_reset_and_hazards.md R230, R232, R234: the reset input and a write of CTRL with bit 31 set have one effect: every
register, flag and FIFO at the value of R234. Of the hidden values R234 leaves unspecified nothing is stated. -/
def Obligations.ResetSetsTheResetValues : Prop :=
  ∀ (s : State) (v : Word), v.getLsbD 31 = true →
    ∃ t : State, hostAccess (.write 0x00 .w32 v) s = .next t ∧ turn .resetInput s = .next t ∧
      t.ieDone = false ∧ t.ieErr = false ∧ regValue .ctrl t = 0x00000000#32 ∧ t.done = false ∧ t.err = false ∧ t.inOvf = false ∧ t.errCode = 0 ∧
      t.len = 0 ∧ t.tag = 0 ∧ t.width = 0 ∧ t.height = 0 ∧ t.colorType = 0 ∧ t.bufLenLo = 0 ∧ t.bufLenHi = 0 ∧
      t.crcState = 0xFFFFFFFF#32 ∧ t.inq = [] ∧ t.outq = [] ∧ t.phase = .idle ∧ SameOutside s t

/-- 70_reset_and_hazards.md R234: the values of R234 in the state after reset. -/
def Obligations.ResetStateIsTheSpecs : Prop :=
  State.reset.phase = .idle ∧ State.reset.inq = [] ∧ State.reset.outq = [] ∧
  statusWord State.reset = 0x00000000#32 ∧ fifoStatusWord State.reset = 0x00000000#32 ∧
  (∀ r : Reg, r ≠ .crcState → regValue r State.reset = 0x00000000#32) ∧
  regValue .crcState State.reset = 0xFFFFFFFF#32

/-! ## Whole-machine rules -/

/-- The state after reset meets the invariant, whatever legal configuration the machine has. -/
def Obligations.ResetMeetsTheInvariant : Prop := Inv State.reset

/-- Every step keeps the invariant: FIFO levels within their depths (10_state.md R21), counters in their ranges
(43_packer.md R191), the error record consistent and its code never 7 to 15 (60_exceptions.md R200). -/
def Obligations.StepKeepsTheInvariant : Prop :=
  ∀ s t : State, Inv s → step s = .next t → Inv t

/-- No step faults, and the one thing a step is refused for is a host access of the window that is not 32 bits wide or
not 4-byte aligned (40_commands.md R112; 20_memory.md R61, R63). -/
def Obligations.OnlyUnsupportedAccessesStop : Prop :=
  ∀ s : State,
    (∃ t : State, step s = .next t ∧ t.params = s.params) ∨
    (step s = .refused .unsupportedAccess ∧ ∃ (offset : Int) (width : Width),
      ((comingAccess s = some (.read offset width)) ∨ ∃ v : Word, comingAccess s = some (.write offset width v)) ∧
      0 < offset + widthBytes width ∧ offset < 64 ∧ (width ≠ .w32 ∨ offset % 4 ≠ 0))

/-- 10_state.md R28: an operand register changes in a step only where the host writes that register or the block is
reset. -/
def Obligations.OnlyTheHostChangesOperands : Prop :=
  ∀ s t : State, step s = .next t → resetsNext s = false →
    (t.len ≠ s.len → comingWrite s = some (.len, t.len)) ∧
    (t.tag ≠ s.tag → comingWrite s = some (.tag, t.tag)) ∧
    (t.width ≠ s.width → comingWrite s = some (.width, t.width)) ∧
    (t.height ≠ s.height → comingWrite s = some (.height, t.height)) ∧
    (t.colorType ≠ s.colorType → ∃ v : Word, comingWrite s = some (.cfg, v) ∧ t.colorType = v.extractLsb' 0 8) ∧
    (t.bufLenLo ≠ s.bufLenLo → comingWrite s = some (.bufLenLo, t.bufLenLo)) ∧
    (t.bufLenHi ≠ s.bufLenHi → comingWrite s = some (.bufLenHi, t.bufLenHi))

/-- 10_state.md R33, 60_exceptions.md R206, R207: ERR rises only by a write of CMD, and IN_OVF only by a write of IN_DATA
that finds INQ full. -/
def Obligations.ErrorFlagsRiseOnlyByTheirCauses : Prop :=
  ∀ s t : State, step s = .next t →
    (s.err = false → t.err = true → ∃ w : Word, comingWrite s = some (.cmd, w)) ∧
    (s.inOvf = false → t.inOvf = true →
      s.params.inDepth ≤ s.inq.length ∧ ∃ v : Word, comingWrite s = some (.inData, v))
end

