-- ==== Sys2Proof/Laws/State.lean ====
section
/-! SUPPORT. What each shared update does to each field of State. -/

namespace Sys2Proof.Machine

/-! Accept writes DONE only (40_commands.md R114). -/

@[simp] theorem accept_ieDone (s : State) : (accept s).ieDone = s.ieDone := rfl
@[simp] theorem accept_ieErr (s : State) : (accept s).ieErr = s.ieErr := rfl
@[simp] theorem accept_done (s : State) : (accept s).done = false := rfl
@[simp] theorem accept_err (s : State) : (accept s).err = s.err := rfl
@[simp] theorem accept_inOvf (s : State) : (accept s).inOvf = s.inOvf := rfl
@[simp] theorem accept_errCode (s : State) : (accept s).errCode = s.errCode := rfl
@[simp] theorem accept_len (s : State) : (accept s).len = s.len := rfl
@[simp] theorem accept_tag (s : State) : (accept s).tag = s.tag := rfl
@[simp] theorem accept_width (s : State) : (accept s).width = s.width := rfl
@[simp] theorem accept_height (s : State) : (accept s).height = s.height := rfl
@[simp] theorem accept_colorType (s : State) : (accept s).colorType = s.colorType := rfl
@[simp] theorem accept_bufLenLo (s : State) : (accept s).bufLenLo = s.bufLenLo := rfl
@[simp] theorem accept_bufLenHi (s : State) : (accept s).bufLenHi = s.bufLenHi := rfl
@[simp] theorem accept_crcState (s : State) : (accept s).crcState = s.crcState := rfl
@[simp] theorem accept_inq (s : State) : (accept s).inq = s.inq := rfl
@[simp] theorem accept_outq (s : State) : (accept s).outq = s.outq := rfl
@[simp] theorem accept_phase (s : State) : (accept s).phase = s.phase := rfl
@[simp] theorem accept_cnt (s : State) : (accept s).cnt = s.cnt := rfl
@[simp] theorem accept_idx (s : State) : (accept s).idx = s.idx := rfl
@[simp] theorem accept_rows (s : State) : (accept s).rows = s.rows := rfl
@[simp] theorem accept_sLen (s : State) : (accept s).sLen = s.sLen := rfl
@[simp] theorem accept_sTag (s : State) : (accept s).sTag = s.sTag := rfl
@[simp] theorem accept_sW (s : State) : (accept s).sW = s.sW := rfl
@[simp] theorem accept_sC (s : State) : (accept s).sC = s.sC := rfl
@[simp] theorem accept_params (s : State) : (accept s).params = s.params := rfl
@[simp] theorem accept_sched (s : State) : (accept s).sched = s.sched := rfl
@[simp] theorem accept_hostAccesses (s : State) : (accept s).hostAccesses = s.hostAccesses := rfl
@[simp] theorem accept_readLog (s : State) : (accept s).readLog = s.readLog := rfl

/-! Complete writes PHASE and DONE only (40_commands.md R116). -/

@[simp] theorem complete_ieDone (s : State) : (complete s).ieDone = s.ieDone := rfl
@[simp] theorem complete_ieErr (s : State) : (complete s).ieErr = s.ieErr := rfl
@[simp] theorem complete_done (s : State) : (complete s).done = true := rfl
@[simp] theorem complete_err (s : State) : (complete s).err = s.err := rfl
@[simp] theorem complete_inOvf (s : State) : (complete s).inOvf = s.inOvf := rfl
@[simp] theorem complete_errCode (s : State) : (complete s).errCode = s.errCode := rfl
@[simp] theorem complete_len (s : State) : (complete s).len = s.len := rfl
@[simp] theorem complete_tag (s : State) : (complete s).tag = s.tag := rfl
@[simp] theorem complete_width (s : State) : (complete s).width = s.width := rfl
@[simp] theorem complete_height (s : State) : (complete s).height = s.height := rfl
@[simp] theorem complete_colorType (s : State) : (complete s).colorType = s.colorType := rfl
@[simp] theorem complete_bufLenLo (s : State) : (complete s).bufLenLo = s.bufLenLo := rfl
@[simp] theorem complete_bufLenHi (s : State) : (complete s).bufLenHi = s.bufLenHi := rfl
@[simp] theorem complete_crcState (s : State) : (complete s).crcState = s.crcState := rfl
@[simp] theorem complete_inq (s : State) : (complete s).inq = s.inq := rfl
@[simp] theorem complete_outq (s : State) : (complete s).outq = s.outq := rfl
@[simp] theorem complete_phase (s : State) : (complete s).phase = .idle := rfl
@[simp] theorem complete_cnt (s : State) : (complete s).cnt = s.cnt := rfl
@[simp] theorem complete_idx (s : State) : (complete s).idx = s.idx := rfl
@[simp] theorem complete_rows (s : State) : (complete s).rows = s.rows := rfl
@[simp] theorem complete_sLen (s : State) : (complete s).sLen = s.sLen := rfl
@[simp] theorem complete_sTag (s : State) : (complete s).sTag = s.sTag := rfl
@[simp] theorem complete_sW (s : State) : (complete s).sW = s.sW := rfl
@[simp] theorem complete_sC (s : State) : (complete s).sC = s.sC := rfl
@[simp] theorem complete_params (s : State) : (complete s).params = s.params := rfl
@[simp] theorem complete_sched (s : State) : (complete s).sched = s.sched := rfl
@[simp] theorem complete_hostAccesses (s : State) : (complete s).hostAccesses = s.hostAccesses := rfl
@[simp] theorem complete_readLog (s : State) : (complete s).readLog = s.readLog := rfl

/-! A rejection writes ERR and ERR_CODE only (40_commands.md R113). -/

@[simp] theorem reject_ieDone (k : ErrorKind) (s : State) : (reject k s).ieDone = s.ieDone := rfl
@[simp] theorem reject_ieErr (k : ErrorKind) (s : State) : (reject k s).ieErr = s.ieErr := rfl
@[simp] theorem reject_done (k : ErrorKind) (s : State) : (reject k s).done = s.done := rfl
@[simp] theorem reject_err (k : ErrorKind) (s : State) : (reject k s).err = true := rfl
@[simp] theorem reject_inOvf (k : ErrorKind) (s : State) : (reject k s).inOvf = s.inOvf := rfl
@[simp] theorem reject_errCode (k : ErrorKind) (s : State) : (reject k s).errCode = errorCode k := rfl
@[simp] theorem reject_len (k : ErrorKind) (s : State) : (reject k s).len = s.len := rfl
@[simp] theorem reject_tag (k : ErrorKind) (s : State) : (reject k s).tag = s.tag := rfl
@[simp] theorem reject_width (k : ErrorKind) (s : State) : (reject k s).width = s.width := rfl
@[simp] theorem reject_height (k : ErrorKind) (s : State) : (reject k s).height = s.height := rfl
@[simp] theorem reject_colorType (k : ErrorKind) (s : State) : (reject k s).colorType = s.colorType := rfl
@[simp] theorem reject_bufLenLo (k : ErrorKind) (s : State) : (reject k s).bufLenLo = s.bufLenLo := rfl
@[simp] theorem reject_bufLenHi (k : ErrorKind) (s : State) : (reject k s).bufLenHi = s.bufLenHi := rfl
@[simp] theorem reject_crcState (k : ErrorKind) (s : State) : (reject k s).crcState = s.crcState := rfl
@[simp] theorem reject_inq (k : ErrorKind) (s : State) : (reject k s).inq = s.inq := rfl
@[simp] theorem reject_outq (k : ErrorKind) (s : State) : (reject k s).outq = s.outq := rfl
@[simp] theorem reject_phase (k : ErrorKind) (s : State) : (reject k s).phase = s.phase := rfl
@[simp] theorem reject_cnt (k : ErrorKind) (s : State) : (reject k s).cnt = s.cnt := rfl
@[simp] theorem reject_idx (k : ErrorKind) (s : State) : (reject k s).idx = s.idx := rfl
@[simp] theorem reject_rows (k : ErrorKind) (s : State) : (reject k s).rows = s.rows := rfl
@[simp] theorem reject_sLen (k : ErrorKind) (s : State) : (reject k s).sLen = s.sLen := rfl
@[simp] theorem reject_sTag (k : ErrorKind) (s : State) : (reject k s).sTag = s.sTag := rfl
@[simp] theorem reject_sW (k : ErrorKind) (s : State) : (reject k s).sW = s.sW := rfl
@[simp] theorem reject_sC (k : ErrorKind) (s : State) : (reject k s).sC = s.sC := rfl
@[simp] theorem reject_params (k : ErrorKind) (s : State) : (reject k s).params = s.params := rfl
@[simp] theorem reject_sched (k : ErrorKind) (s : State) : (reject k s).sched = s.sched := rfl
@[simp] theorem reject_hostAccesses (k : ErrorKind) (s : State) : (reject k s).hostAccesses = s.hostAccesses := rfl
@[simp] theorem reject_readLog (k : ErrorKind) (s : State) : (reject k s).readLog = s.readLog := rfl

/-! Acknowledging an error writes ERR and ERR_CODE only (60_exceptions.md R209). -/

@[simp] theorem acknowledge_ieDone (s : State) : (acknowledge s).ieDone = s.ieDone := rfl
@[simp] theorem acknowledge_ieErr (s : State) : (acknowledge s).ieErr = s.ieErr := rfl
@[simp] theorem acknowledge_done (s : State) : (acknowledge s).done = s.done := rfl
@[simp] theorem acknowledge_err (s : State) : (acknowledge s).err = false := rfl
@[simp] theorem acknowledge_inOvf (s : State) : (acknowledge s).inOvf = s.inOvf := rfl
@[simp] theorem acknowledge_errCode (s : State) : (acknowledge s).errCode = 0 := rfl
@[simp] theorem acknowledge_len (s : State) : (acknowledge s).len = s.len := rfl
@[simp] theorem acknowledge_tag (s : State) : (acknowledge s).tag = s.tag := rfl
@[simp] theorem acknowledge_width (s : State) : (acknowledge s).width = s.width := rfl
@[simp] theorem acknowledge_height (s : State) : (acknowledge s).height = s.height := rfl
@[simp] theorem acknowledge_colorType (s : State) : (acknowledge s).colorType = s.colorType := rfl
@[simp] theorem acknowledge_bufLenLo (s : State) : (acknowledge s).bufLenLo = s.bufLenLo := rfl
@[simp] theorem acknowledge_bufLenHi (s : State) : (acknowledge s).bufLenHi = s.bufLenHi := rfl
@[simp] theorem acknowledge_crcState (s : State) : (acknowledge s).crcState = s.crcState := rfl
@[simp] theorem acknowledge_inq (s : State) : (acknowledge s).inq = s.inq := rfl
@[simp] theorem acknowledge_outq (s : State) : (acknowledge s).outq = s.outq := rfl
@[simp] theorem acknowledge_phase (s : State) : (acknowledge s).phase = s.phase := rfl
@[simp] theorem acknowledge_cnt (s : State) : (acknowledge s).cnt = s.cnt := rfl
@[simp] theorem acknowledge_idx (s : State) : (acknowledge s).idx = s.idx := rfl
@[simp] theorem acknowledge_rows (s : State) : (acknowledge s).rows = s.rows := rfl
@[simp] theorem acknowledge_sLen (s : State) : (acknowledge s).sLen = s.sLen := rfl
@[simp] theorem acknowledge_sTag (s : State) : (acknowledge s).sTag = s.sTag := rfl
@[simp] theorem acknowledge_sW (s : State) : (acknowledge s).sW = s.sW := rfl
@[simp] theorem acknowledge_sC (s : State) : (acknowledge s).sC = s.sC := rfl
@[simp] theorem acknowledge_params (s : State) : (acknowledge s).params = s.params := rfl
@[simp] theorem acknowledge_sched (s : State) : (acknowledge s).sched = s.sched := rfl
@[simp] theorem acknowledge_hostAccesses (s : State) : (acknowledge s).hostAccesses = s.hostAccesses := rfl
@[simp] theorem acknowledge_readLog (s : State) : (acknowledge s).readLog = s.readLog := rfl

/-! OutPush writes OUTQ only (20_memory.md R72). -/

@[simp] theorem outPush_ieDone (b : Byte) (s : State) : (outPush b s).ieDone = s.ieDone := rfl
@[simp] theorem outPush_ieErr (b : Byte) (s : State) : (outPush b s).ieErr = s.ieErr := rfl
@[simp] theorem outPush_done (b : Byte) (s : State) : (outPush b s).done = s.done := rfl
@[simp] theorem outPush_err (b : Byte) (s : State) : (outPush b s).err = s.err := rfl
@[simp] theorem outPush_inOvf (b : Byte) (s : State) : (outPush b s).inOvf = s.inOvf := rfl
@[simp] theorem outPush_errCode (b : Byte) (s : State) : (outPush b s).errCode = s.errCode := rfl
@[simp] theorem outPush_len (b : Byte) (s : State) : (outPush b s).len = s.len := rfl
@[simp] theorem outPush_tag (b : Byte) (s : State) : (outPush b s).tag = s.tag := rfl
@[simp] theorem outPush_width (b : Byte) (s : State) : (outPush b s).width = s.width := rfl
@[simp] theorem outPush_height (b : Byte) (s : State) : (outPush b s).height = s.height := rfl
@[simp] theorem outPush_colorType (b : Byte) (s : State) : (outPush b s).colorType = s.colorType := rfl
@[simp] theorem outPush_bufLenLo (b : Byte) (s : State) : (outPush b s).bufLenLo = s.bufLenLo := rfl
@[simp] theorem outPush_bufLenHi (b : Byte) (s : State) : (outPush b s).bufLenHi = s.bufLenHi := rfl
@[simp] theorem outPush_crcState (b : Byte) (s : State) : (outPush b s).crcState = s.crcState := rfl
@[simp] theorem outPush_inq (b : Byte) (s : State) : (outPush b s).inq = s.inq := rfl
@[simp] theorem outPush_outq (b : Byte) (s : State) : (outPush b s).outq = s.outq ++ [b] := rfl
@[simp] theorem outPush_phase (b : Byte) (s : State) : (outPush b s).phase = s.phase := rfl
@[simp] theorem outPush_cnt (b : Byte) (s : State) : (outPush b s).cnt = s.cnt := rfl
@[simp] theorem outPush_idx (b : Byte) (s : State) : (outPush b s).idx = s.idx := rfl
@[simp] theorem outPush_rows (b : Byte) (s : State) : (outPush b s).rows = s.rows := rfl
@[simp] theorem outPush_sLen (b : Byte) (s : State) : (outPush b s).sLen = s.sLen := rfl
@[simp] theorem outPush_sTag (b : Byte) (s : State) : (outPush b s).sTag = s.sTag := rfl
@[simp] theorem outPush_sW (b : Byte) (s : State) : (outPush b s).sW = s.sW := rfl
@[simp] theorem outPush_sC (b : Byte) (s : State) : (outPush b s).sC = s.sC := rfl
@[simp] theorem outPush_params (b : Byte) (s : State) : (outPush b s).params = s.params := rfl
@[simp] theorem outPush_sched (b : Byte) (s : State) : (outPush b s).sched = s.sched := rfl
@[simp] theorem outPush_hostAccesses (b : Byte) (s : State) : (outPush b s).hostAccesses = s.hostAccesses := rfl
@[simp] theorem outPush_readLog (b : Byte) (s : State) : (outPush b s).readLog = s.readLog := rfl

/-! A byte absorbed writes CRC_STATE only (41_checksum.md R148). -/

@[simp] theorem absorb_ieDone (b : Byte) (s : State) : (absorb b s).ieDone = s.ieDone := rfl
@[simp] theorem absorb_ieErr (b : Byte) (s : State) : (absorb b s).ieErr = s.ieErr := rfl
@[simp] theorem absorb_done (b : Byte) (s : State) : (absorb b s).done = s.done := rfl
@[simp] theorem absorb_err (b : Byte) (s : State) : (absorb b s).err = s.err := rfl
@[simp] theorem absorb_inOvf (b : Byte) (s : State) : (absorb b s).inOvf = s.inOvf := rfl
@[simp] theorem absorb_errCode (b : Byte) (s : State) : (absorb b s).errCode = s.errCode := rfl
@[simp] theorem absorb_len (b : Byte) (s : State) : (absorb b s).len = s.len := rfl
@[simp] theorem absorb_tag (b : Byte) (s : State) : (absorb b s).tag = s.tag := rfl
@[simp] theorem absorb_width (b : Byte) (s : State) : (absorb b s).width = s.width := rfl
@[simp] theorem absorb_height (b : Byte) (s : State) : (absorb b s).height = s.height := rfl
@[simp] theorem absorb_colorType (b : Byte) (s : State) : (absorb b s).colorType = s.colorType := rfl
@[simp] theorem absorb_bufLenLo (b : Byte) (s : State) : (absorb b s).bufLenLo = s.bufLenLo := rfl
@[simp] theorem absorb_bufLenHi (b : Byte) (s : State) : (absorb b s).bufLenHi = s.bufLenHi := rfl
@[simp] theorem absorb_crcState (b : Byte) (s : State) : (absorb b s).crcState = crcByte s.crcState b := rfl
@[simp] theorem absorb_inq (b : Byte) (s : State) : (absorb b s).inq = s.inq := rfl
@[simp] theorem absorb_outq (b : Byte) (s : State) : (absorb b s).outq = s.outq := rfl
@[simp] theorem absorb_phase (b : Byte) (s : State) : (absorb b s).phase = s.phase := rfl
@[simp] theorem absorb_cnt (b : Byte) (s : State) : (absorb b s).cnt = s.cnt := rfl
@[simp] theorem absorb_idx (b : Byte) (s : State) : (absorb b s).idx = s.idx := rfl
@[simp] theorem absorb_rows (b : Byte) (s : State) : (absorb b s).rows = s.rows := rfl
@[simp] theorem absorb_sLen (b : Byte) (s : State) : (absorb b s).sLen = s.sLen := rfl
@[simp] theorem absorb_sTag (b : Byte) (s : State) : (absorb b s).sTag = s.sTag := rfl
@[simp] theorem absorb_sW (b : Byte) (s : State) : (absorb b s).sW = s.sW := rfl
@[simp] theorem absorb_sC (b : Byte) (s : State) : (absorb b s).sC = s.sC := rfl
@[simp] theorem absorb_params (b : Byte) (s : State) : (absorb b s).params = s.params := rfl
@[simp] theorem absorb_sched (b : Byte) (s : State) : (absorb b s).sched = s.sched := rfl
@[simp] theorem absorb_hostAccesses (b : Byte) (s : State) : (absorb b s).hostAccesses = s.hostAccesses := rfl
@[simp] theorem absorb_readLog (b : Byte) (s : State) : (absorb b s).readLog = s.readLog := rfl

/-! Reset writes the block and leaves what lies outside it (70_reset_and_hazards.md R234; hidden fields: log entry 3). -/

@[simp] theorem resetBlock_ieDone (s : State) : (resetBlock s).ieDone = false := rfl
@[simp] theorem resetBlock_ieErr (s : State) : (resetBlock s).ieErr = false := rfl
@[simp] theorem resetBlock_done (s : State) : (resetBlock s).done = false := rfl
@[simp] theorem resetBlock_err (s : State) : (resetBlock s).err = false := rfl
@[simp] theorem resetBlock_inOvf (s : State) : (resetBlock s).inOvf = false := rfl
@[simp] theorem resetBlock_errCode (s : State) : (resetBlock s).errCode = 0 := rfl
@[simp] theorem resetBlock_len (s : State) : (resetBlock s).len = 0 := rfl
@[simp] theorem resetBlock_tag (s : State) : (resetBlock s).tag = 0 := rfl
@[simp] theorem resetBlock_width (s : State) : (resetBlock s).width = 0 := rfl
@[simp] theorem resetBlock_height (s : State) : (resetBlock s).height = 0 := rfl
@[simp] theorem resetBlock_colorType (s : State) : (resetBlock s).colorType = 0 := rfl
@[simp] theorem resetBlock_bufLenLo (s : State) : (resetBlock s).bufLenLo = 0 := rfl
@[simp] theorem resetBlock_bufLenHi (s : State) : (resetBlock s).bufLenHi = 0 := rfl
@[simp] theorem resetBlock_crcState (s : State) : (resetBlock s).crcState = 0xFFFFFFFF := rfl
@[simp] theorem resetBlock_inq (s : State) : (resetBlock s).inq = [] := rfl
@[simp] theorem resetBlock_outq (s : State) : (resetBlock s).outq = [] := rfl
@[simp] theorem resetBlock_phase (s : State) : (resetBlock s).phase = .idle := rfl
@[simp] theorem resetBlock_cnt (s : State) : (resetBlock s).cnt = 0 := rfl
@[simp] theorem resetBlock_idx (s : State) : (resetBlock s).idx = 0 := rfl
@[simp] theorem resetBlock_rows (s : State) : (resetBlock s).rows = 0 := rfl
@[simp] theorem resetBlock_sLen (s : State) : (resetBlock s).sLen = 0 := rfl
@[simp] theorem resetBlock_sTag (s : State) : (resetBlock s).sTag = 0 := rfl
@[simp] theorem resetBlock_sW (s : State) : (resetBlock s).sW = 0 := rfl
@[simp] theorem resetBlock_sC (s : State) : (resetBlock s).sC = .rgb := rfl
@[simp] theorem resetBlock_params (s : State) : (resetBlock s).params = s.params := rfl
@[simp] theorem resetBlock_sched (s : State) : (resetBlock s).sched = s.sched := rfl
@[simp] theorem resetBlock_hostAccesses (s : State) : (resetBlock s).hostAccesses = s.hostAccesses := rfl
@[simp] theorem resetBlock_readLog (s : State) : (resetBlock s).readLog = s.readLog := rfl

end Sys2Proof.Machine
end

