-- ==== Sys2Proof/Laws/Ops.lean ====
section
/-! SUPPORT. One lemma for each shared operation, saying once everything it can do; proofs cite these instead of
unfolding the operation. -/

namespace Sys2Proof.Machine

/-! ## Issuing -/

theorem busy_iff (s : State) : busy s = true ↔ s.phase ≠ .idle := by simp [busy]

theorem busy_false_iff (s : State) : busy s = false ↔ s.phase = .idle := by simp [busy]

theorem issueCommand_busy {α : Type} {s : State} (h : s.phase ≠ .idle) (check : Except ErrorKind α)
    (start : α → State → State) : issueCommand s check start = .next (reject .busy s) := by
  simp [issueCommand, (busy_iff s).mpr h]

theorem issueCommand_error {α : Type} {s : State} (h : s.phase = .idle) (k : ErrorKind)
    (start : α → State → State) : issueCommand s (.error k) start = .next (reject k s) := by
  simp [issueCommand, (busy_false_iff s).mpr h]

theorem issueCommand_ok {α : Type} {s : State} (h : s.phase = .idle) (a : α) (start : α → State → State) :
    issueCommand s (.ok a) start = .next (start a (accept s)) := by
  simp [issueCommand, (busy_false_iff s).mpr h]

/-- Issuing always answers a next state: the rejection for Busy, the rejection by the command's check, or the start of
the accepted command (40_commands.md R111, R112). -/
theorem issueCommand_cases {α : Type} (s : State) (check : Except ErrorKind α) (start : α → State → State) :
    (s.phase ≠ .idle ∧ issueCommand s check start = .next (reject .busy s)) ∨
    (∃ k, s.phase = .idle ∧ check = .error k ∧ issueCommand s check start = .next (reject k s)) ∨
    (∃ a, s.phase = .idle ∧ check = .ok a ∧ issueCommand s check start = .next (start a (accept s))) := by
  by_cases h : s.phase = .idle
  · cases check with
    | error k => exact .inr (.inl ⟨k, h, rfl, issueCommand_error h k start⟩)
    | ok a => exact .inr (.inr ⟨a, h, rfl, issueCommand_ok h a start⟩)
  · exact .inl ⟨h, issueCommand_busy h check start⟩

theorem errorCode_bounds (k : ErrorKind) : 1 ≤ (errorCode k).toNat ∧ (errorCode k).toNat ≤ 6 := by
  cases k <;> decide

/-- The start of an accepted command, by command: what the issuing step makes of an idle state (R125, R145 to R147,
R167, R186). -/
theorem exec_cases {i : Instr} {s t : State} (h : exec i s = .next t) :
    (∃ k, t = reject k s) ∨
    (s.phase = .idle ∧
      ((i = .nop ∧ t = complete (accept s)) ∨
       (i = .crcInit ∧ t = complete { accept s with crcState := crcInitial }) ∨
       (i = .crcUpdate ∧ t = startCrcRun (accept s)) ∨
       (i = .crcCalc ∧ t = startCrcRun { accept s with crcState := crcInitial }) ∨
       (i = .frame 4 ∧ t = startFrame (accept s)) ∨
       (∃ c, i = .pack ∧ checkPack s = .ok c ∧ t = startPack c (accept s)))) := by
  cases i with
  | nop =>
    obtain ⟨-, e⟩ | ⟨k, -, -, e⟩ | ⟨a, hi, -, e⟩ := issueCommand_cases s (.ok ()) fun _ => complete
    · exact .inl ⟨_, by simpa using (h.symm.trans e)⟩
    · exact .inl ⟨_, by simpa using (h.symm.trans e)⟩
    · exact .inr ⟨hi, .inl ⟨rfl, by simpa using (h.symm.trans e)⟩⟩
  | crcInit =>
    obtain ⟨-, e⟩ | ⟨k, -, -, e⟩ | ⟨a, hi, -, e⟩ :=
      issueCommand_cases s (.ok ()) fun _ t => complete { t with crcState := crcInitial }
    · exact .inl ⟨_, by simpa using (h.symm.trans e)⟩
    · exact .inl ⟨_, by simpa using (h.symm.trans e)⟩
    · exact .inr ⟨hi, .inr (.inl ⟨rfl, by simpa using (h.symm.trans e)⟩)⟩
  | crcUpdate =>
    obtain ⟨-, e⟩ | ⟨k, -, -, e⟩ | ⟨a, hi, -, e⟩ := issueCommand_cases s (.ok ()) fun _ => startCrcRun
    · exact .inl ⟨_, by simpa using (h.symm.trans e)⟩
    · exact .inl ⟨_, by simpa using (h.symm.trans e)⟩
    · exact .inr ⟨hi, .inr (.inr (.inl ⟨rfl, by simpa using (h.symm.trans e)⟩))⟩
  | crcCalc =>
    obtain ⟨-, e⟩ | ⟨k, -, -, e⟩ | ⟨a, hi, -, e⟩ :=
      issueCommand_cases s (.ok ()) fun _ t => startCrcRun { t with crcState := crcInitial }
    · exact .inl ⟨_, by simpa using (h.symm.trans e)⟩
    · exact .inl ⟨_, by simpa using (h.symm.trans e)⟩
    · exact .inr ⟨hi, .inr (.inr (.inr (.inl ⟨rfl, by simpa using (h.symm.trans e)⟩)))⟩
  | frame taglen =>
    obtain ⟨-, e⟩ | ⟨k, -, -, e⟩ | ⟨a, hi, hc, e⟩ := issueCommand_cases s (checkFrame taglen) fun _ => startFrame
    · exact .inl ⟨_, by simpa using (h.symm.trans e)⟩
    · exact .inl ⟨_, by simpa using (h.symm.trans e)⟩
    · have h4 : taglen = 4 := by
        by_contra hn
        simp [checkFrame, hn] at hc
      exact .inr ⟨hi, .inr (.inr (.inr (.inr (.inl ⟨by rw [h4], by simpa using (h.symm.trans e)⟩))))⟩
  | pack =>
    obtain ⟨-, e⟩ | ⟨k, -, -, e⟩ | ⟨a, hi, hc, e⟩ := issueCommand_cases s (checkPack s) startPack
    · exact .inl ⟨_, by simpa using (h.symm.trans e)⟩
    · exact .inl ⟨_, by simpa using (h.symm.trans e)⟩
    · exact .inr ⟨hi, .inr (.inr (.inr (.inr (.inr ⟨a, rfl, hc, by simpa using (h.symm.trans e)⟩))))⟩

/-- Every command answers a next state (40_commands.md R112). -/
theorem exec_next (i : Instr) (s : State) : ∃ t, exec i s = .next t := by
  have key : ∀ {α : Type} (check : Except ErrorKind α) (start : α → State → State),
      ∃ t, issueCommand s check start = .next t := by
    intro α check start
    obtain ⟨-, e⟩ | ⟨k, -, -, e⟩ | ⟨a, -, -, e⟩ := issueCommand_cases s check start <;> exact ⟨_, e⟩
  cases i <;> simp only [exec, execNop, execCrcInit, execCrcUpdate, execCrcCalc, execFrame, execPack] <;>
    exact key _ _

/-- Issuing a word executes its command or rejects it (40_commands.md R111). -/
theorem issue_cases (w : Word) (s : State) :
    (∃ i, decode w = .ok i ∧ issue w s = exec i s) ∨
    (∃ e, decode w = .error e ∧ issue w s = rejectIllegal s) := by
  cases h : decode w with
  | ok i => exact .inl ⟨i, rfl, by simp [issue, h]⟩
  | error e => exact .inr ⟨e, rfl, by simp [issue, h]⟩

theorem rejectIllegal_next (s : State) : ∃ k, rejectIllegal s = .next (reject k s) := by
  obtain ⟨-, e⟩ | ⟨k, -, -, e⟩ | ⟨a, -, hc, -⟩ :=
    issueCommand_cases s (.error .illegalCommand) fun (_ : Unit) t => t
  · exact ⟨_, e⟩
  · exact ⟨_, e⟩
  · simp at hc

/-- Every word written to CMD answers a next state (40_commands.md R112). -/
theorem issue_next (w : Word) (s : State) : ∃ t, issue w s = .next t := by
  obtain ⟨i, -, e⟩ | ⟨-, -, e⟩ := issue_cases w s
  · obtain ⟨t, ht⟩ := exec_next i s
    exact ⟨t, e.trans ht⟩
  · obtain ⟨k, hk⟩ := rejectIllegal_next s
    exact ⟨_, e.trans hk⟩

/-- What PACK's checks ask where they pass (43_packer.md R182, R183). -/
theorem checkPack_ok {s : State} {c : Channels} (h : checkPack s = .ok c) :
    channelsOf s.colorType = some c ∧
    1 ≤ s.width.toNat ∧ s.width.toNat ≤ 0x7FFFFFFF ∧ 1 ≤ s.height.toNat ∧ s.height.toNat ≤ 0x7FFFFFFF ∧
    (bufLen s).toNat = sampleCount s c := by
  unfold checkPack at h
  cases hc : channelsOf s.colorType with
  | none => simp [hc] at h
  | some d =>
    simp only [hc] at h
    split at h
    · simp at h
    · next hr =>
      split at h
      · next hb =>
        have hd : d = c := by simpa using h
        subst hd
        simp only [dimensionInRange, Bool.and_eq_false_iff, decide_eq_false_iff_not, not_or, not_not] at hr
        obtain ⟨⟨h1, h2⟩, h3, h4⟩ := hr
        exact ⟨rfl, h1, h2, h3, h4, hb⟩
      · simp at h

theorem bufLen_toNat (s : State) : (bufLen s).toNat = s.bufLenHi.toNat * 2 ^ 32 + s.bufLenLo.toNat := by
  have h := s.bufLenLo.isLt
  simp only [bufLen, BitVec.toNat_append, Nat.shiftLeft_eq]
  rw [Nat.or_comm, Nat.mul_comm, Nat.lor_comm, ← Nat.two_pow_add_eq_or_of_lt h, Nat.mul_comm]

/-! ## The engine -/

/-- Every step the engine can take, with the state it leads to (41_checksum.md R148; 42_framer.md R168 to R171;
43_packer.md R187, R188). A count of 0 or 1 is the last one. -/
inductive EngineMoves (s : State) : State → Prop where
  | crcMore (b : Byte) (rest : List Byte) (at_phase : s.phase = .crcRun) (input : s.inq = b :: rest)
      (more : 2 ≤ s.cnt) :
      EngineMoves s { s with inq := rest, crcState := crcByte s.crcState b, cnt := s.cnt - 1 }
  | crcLast (b : Byte) (rest : List Byte) (at_phase : s.phase = .crcRun) (input : s.inq = b :: rest)
      (last : s.cnt ≤ 1) :
      EngineMoves s
        { s with inq := rest, crcState := crcByte s.crcState b, cnt := 0, phase := .idle, done := true }
  | lenMore (at_phase : s.phase = .frLen) (room : s.outq.length < s.params.outDepth) (more : s.idx ≠ 3) :
      EngineMoves s { s with outq := s.outq ++ [be32Byte s.sLen s.idx], idx := s.idx + 1 }
  | lenLast (at_phase : s.phase = .frLen) (room : s.outq.length < s.params.outDepth) (last : s.idx = 3) :
      EngineMoves s { s with outq := s.outq ++ [be32Byte s.sLen 3], idx := 0, phase := .frTag }
  | tagMore (at_phase : s.phase = .frTag) (room : s.outq.length < s.params.outDepth) (more : s.idx ≠ 3) :
      EngineMoves s
        { s with
          outq := s.outq ++ [be32Byte s.sTag s.idx], crcState := crcByte s.crcState (be32Byte s.sTag s.idx)
          idx := s.idx + 1 }
  | tagLastEmpty (at_phase : s.phase = .frTag) (room : s.outq.length < s.params.outDepth) (last : s.idx = 3)
      (empty : s.sLen.toNat = 0) :
      EngineMoves s
        { s with
          outq := s.outq ++ [be32Byte s.sTag 3], crcState := crcByte s.crcState (be32Byte s.sTag 3), idx := 0
          phase := .frCrc }
  | tagLast (at_phase : s.phase = .frTag) (room : s.outq.length < s.params.outDepth) (last : s.idx = 3)
      (payload : s.sLen.toNat ≠ 0) :
      EngineMoves s
        { s with
          outq := s.outq ++ [be32Byte s.sTag 3], crcState := crcByte s.crcState (be32Byte s.sTag 3), idx := 0
          cnt := s.sLen.toNat, phase := .frPay }
  | payMore (b : Byte) (rest : List Byte) (at_phase : s.phase = .frPay) (input : s.inq = b :: rest)
      (room : s.outq.length < s.params.outDepth) (more : 2 ≤ s.cnt) :
      EngineMoves s
        { s with inq := rest, outq := s.outq ++ [b], crcState := crcByte s.crcState b, cnt := s.cnt - 1 }
  | payLast (b : Byte) (rest : List Byte) (at_phase : s.phase = .frPay) (input : s.inq = b :: rest)
      (room : s.outq.length < s.params.outDepth) (last : s.cnt ≤ 1) :
      EngineMoves s
        { s with
          inq := rest, outq := s.outq ++ [b], crcState := crcByte s.crcState b, cnt := 0, idx := 0
          phase := .frCrc }
  | sumMore (at_phase : s.phase = .frCrc) (room : s.outq.length < s.params.outDepth) (more : s.idx ≠ 3) :
      EngineMoves s { s with outq := s.outq ++ [be32Byte (~~~ s.crcState) s.idx], idx := s.idx + 1 }
  | sumLast (at_phase : s.phase = .frCrc) (room : s.outq.length < s.params.outDepth) (last : s.idx = 3) :
      EngineMoves s
        { s with outq := s.outq ++ [be32Byte (~~~ s.crcState) 3], idx := 0, phase := .idle, done := true }
  | select (at_phase : s.phase = .pkSel) (room : s.outq.length < s.params.outDepth) :
      EngineMoves s { s with outq := s.outq ++ [filterByte], cnt := rowSamples s, phase := .pkRow }
  | rowMore (b : Byte) (rest : List Byte) (at_phase : s.phase = .pkRow) (input : s.inq = b :: rest)
      (room : s.outq.length < s.params.outDepth) (more : 2 ≤ s.cnt) :
      EngineMoves s { s with inq := rest, outq := s.outq ++ [b], cnt := s.cnt - 1 }
  | rowEnd (b : Byte) (rest : List Byte) (at_phase : s.phase = .pkRow) (input : s.inq = b :: rest)
      (room : s.outq.length < s.params.outDepth) (last : s.cnt ≤ 1) (more : 2 ≤ s.rows) :
      EngineMoves s
        { s with inq := rest, outq := s.outq ++ [b], cnt := 0, rows := s.rows - 1, phase := .pkSel }
  | rowLast (b : Byte) (rest : List Byte) (at_phase : s.phase = .pkRow) (input : s.inq = b :: rest)
      (room : s.outq.length < s.params.outDepth) (last : s.cnt ≤ 1) (lastRow : s.rows ≤ 1) :
      EngineMoves s
        { s with
          inq := rest, outq := s.outq ++ [b], cnt := 0, rows := 0, phase := .idle, done := true }

/-- Counting down reaches the end at a count of 0 or 1. -/
theorem countDown_cases (last : State → State) (s : State) :
    (2 ≤ s.cnt ∧ countDown last s = { s with cnt := s.cnt - 1 }) ∨
    (s.cnt ≤ 1 ∧ countDown last s = last { s with cnt := 0 }) := by
  by_cases h : s.cnt - 1 = 0
  · exact .inr ⟨by omega, by simp [countDown, h]⟩
  · exact .inl ⟨by omega, by simp [countDown, h]⟩

/-- Indexing reaches the end at index 3. -/
theorem nextIndex_cases (last : State → State) (s : State) :
    (s.idx ≠ 3 ∧ nextIndex last s = { s with idx := s.idx + 1 }) ∨
    (s.idx = 3 ∧ nextIndex last s = last { s with idx := 0 }) := by
  by_cases h : s.idx = 3
  · exact .inr ⟨h, by simp [nextIndex, h]⟩
  · exact .inl ⟨h, by simp [nextIndex, h]⟩

/-- An engine turn without a step changes nothing (40_commands.md R118). -/
theorem engineStep_waits {s : State} (h : engineEnabled s = false) : engineStep s = s := by
  simp [engineStep, h]

/-- An engine turn with a step is one of the steps above (40_commands.md R117). -/
theorem engineStep_moves {s : State} (h : engineEnabled s = true) : EngineMoves s (engineStep s) := by
  have hm : engineStep s = engineMove s := by simp [engineStep, h]
  rw [hm]
  have input : needsInput s.phase = true → ∃ b rest, s.inq = b :: rest := by
    intro hn
    cases hq : s.inq with
    | nil => simp [engineEnabled, hn, hq] at h
    | cons b rest => exact ⟨b, rest, rfl⟩
  have room : needsOutput s.phase = true → s.outq.length < s.params.outDepth := by
    intro hn
    simp only [engineEnabled, hn, outputFree, Bool.and_eq_true] at h
    simpa using h.2
  unfold engineMove
  cases hp : s.phase with
  | idle => simp [engineEnabled, busy, hp] at h
  | crcRun =>
    obtain ⟨b, rest, hq⟩ := input (by rw [hp]; rfl)
    simp only [stepCrcRun, withInput, hq]
    obtain ⟨hc, e⟩ | ⟨hc, e⟩ := countDown_cases complete (absorb b { s with inq := rest })
    · rw [e]; exact .crcMore b rest hp hq hc
    · rw [e]; exact .crcLast b rest hp hq hc
  | frLen =>
    have hr := room (by rw [hp]; rfl)
    simp only [stepFrLen]
    obtain ⟨hi, e⟩ | ⟨hi, e⟩ :=
      nextIndex_cases (fun t => { t with phase := .frTag }) (outPush (be32Byte s.sLen s.idx) s)
    · rw [e]; exact .lenMore hp hr hi
    · have hi : s.idx = 3 := hi
      rw [e, hi]; exact .lenLast hp hr hi
  | frTag =>
    have hr := room (by rw [hp]; rfl)
    simp only [stepFrTag]
    obtain ⟨hi, e⟩ | ⟨hi, e⟩ :=
      nextIndex_cases afterTag (absorb (be32Byte s.sTag s.idx) (outPush (be32Byte s.sTag s.idx) s))
    · rw [e]; exact .tagMore hp hr hi
    · have hi : s.idx = 3 := hi
      rw [e, hi]
      by_cases hl : s.sLen.toNat = 0
      · have := EngineMoves.tagLastEmpty hp hr hi hl
        simpa [afterTag, hl, absorb, outPush] using this
      · have := EngineMoves.tagLast hp hr hi hl
        simpa [afterTag, hl, absorb, outPush] using this
  | frPay =>
    obtain ⟨b, rest, hq⟩ := input (by rw [hp]; rfl)
    have hr := room (by rw [hp]; rfl)
    simp only [stepFrPay, withInput, hq]
    obtain ⟨hc, e⟩ | ⟨hc, e⟩ := countDown_cases (fun u => { u with idx := 0, phase := .frCrc })
      (absorb b (outPush b { s with inq := rest }))
    · rw [e]; exact .payMore b rest hp hq hr hc
    · rw [e]; exact .payLast b rest hp hq hr hc
  | frCrc =>
    have hr := room (by rw [hp]; rfl)
    simp only [stepFrCrc]
    obtain ⟨hi, e⟩ | ⟨hi, e⟩ := nextIndex_cases complete (outPush (be32Byte (~~~ s.crcState) s.idx) s)
    · rw [e]; exact .sumMore hp hr hi
    · have hi : s.idx = 3 := hi
      rw [e, hi]; exact .sumLast hp hr hi
  | pkSel => exact .select hp (room (by rw [hp]; rfl))
  | pkRow =>
    obtain ⟨b, rest, hq⟩ := input (by rw [hp]; rfl)
    have hr := room (by rw [hp]; rfl)
    simp only [stepPkRow, withInput, hq]
    obtain ⟨hc, e⟩ | ⟨hc, e⟩ := countDown_cases afterRow (outPush b { s with inq := rest })
    · rw [e]; exact .rowMore b rest hp hq hr hc
    · rw [e]
      by_cases hw : s.rows - 1 = 0
      · have := EngineMoves.rowLast b rest hp hq hr hc (by omega)
        simpa [afterRow, hw, outPush, complete] using this
      · have := EngineMoves.rowEnd b rest hp hq hr hc (by omega)
        simpa [afterRow, hw, outPush] using this

/-- In each state the engine has at most one step (40_commands.md R120). -/
theorem EngineMoves.unique {s t u : State} (ht : EngineMoves s t) (hu : EngineMoves s u) : t = u := by
  cases ht <;> cases hu <;> simp_all <;> omega

theorem EngineMoves.enabled {s t : State} (h : EngineMoves s t) : engineEnabled s = true := by
  cases h <;> simp_all [engineEnabled, busy, needsInput, needsOutput, outputFree]

/-- A step the engine can take is the one it takes. -/
theorem engineStep_eq {s t : State} (h : EngineMoves s t) : engineStep s = t :=
  (engineStep_moves h.enabled).unique h

/-! ## The register window -/

theorem accessReg_regOffset (r : Reg) : accessReg (regOffset r : Int) .w32 = some r := by cases r <;> rfl

/-- A supported access lies in the window, at the offset of its register, and is 32 bits wide (20_memory.md R61, R63). -/
theorem accessReg_some {offset : Int} {width : Width} {r : Reg} (h : accessReg offset width = some r) :
    width = .w32 ∧ offset = regOffset r ∧ reachesBlock offset width = true := by
  cases width with
  | w32 =>
    cases offset with
    | ofNat o =>
      have ho : o = regOffset r := by
        simp only [accessReg] at h
        unfold regAt at h
        split at h <;> first | (cases h; rfl) | simp at h
      subst ho
      refine ⟨rfl, rfl, ?_⟩
      cases r <;> rfl
    | negSucc o => simp [accessReg] at h
  | w8 => simp [accessReg] at h
  | w16 => simp [accessReg] at h
  | w64 => simp [accessReg] at h

/-- The register an access names, if it names one. -/
def accessTarget : Access → Option Reg
  | .read offset width => accessReg offset width
  | .write offset width _ => accessReg offset width

/-- A host access: none of the block's where it is outside the window; refused; a read; or a write of the register at
its offset (20_memory.md R61, R63). -/
theorem hostAccess_cases (a : Access) (s : State) :
    (accessTarget a = none ∧ hostAccess a s = .next s) ∨
    (accessTarget a = none ∧ hostAccess a s = .refused .unsupportedAccess) ∨
    (∃ offset width r, a = .read offset width ∧ accessReg offset width = some r ∧
      hostAccess a s = .next (readReg r s)) ∨
    (∃ offset width v r, a = .write offset width v ∧ accessReg offset width = some r ∧
      hostAccess a s = writeReg r v s) := by
  have none_of_outside : ∀ offset width, ¬reachesBlock offset width = true → accessReg offset width = none := by
    intro offset width h
    cases hr : accessReg offset width with
    | none => rfl
    | some r => exact absurd (accessReg_some hr).2.2 h
  cases a with
  | read offset width =>
    by_cases h : reachesBlock offset width
    · cases hr : accessReg offset width with
      | none => exact .inr (.inl ⟨hr, by simp [hostAccess, h, hr]⟩)
      | some r => exact .inr (.inr (.inl ⟨_, _, r, rfl, hr, by simp [hostAccess, h, hr]⟩))
    · exact .inl ⟨none_of_outside _ _ h, by simp [hostAccess, h]⟩
  | write offset width v =>
    by_cases h : reachesBlock offset width
    · cases hr : accessReg offset width with
      | none => exact .inr (.inl ⟨hr, by simp [hostAccess, h, hr]⟩)
      | some r => exact .inr (.inr (.inr ⟨_, _, v, r, rfl, hr, by simp [hostAccess, h, hr]⟩))
    · exact .inl ⟨none_of_outside _ _ h, by simp [hostAccess, h]⟩

/-- Every write of a register answers a next state. -/
theorem writeReg_next (r : Reg) (v : Word) (s : State) : ∃ t, writeReg r v s = .next t := by
  cases r <;> first | exact issue_next v s | exact ⟨_, rfl⟩

/-- A push changes INQ or IN_OVF and nothing else (20_memory.md R70). -/
theorem pushInput_cases (b : Byte) (s : State) :
    (s.inq.length < s.params.inDepth ∧ pushInput b s = { s with inq := s.inq ++ [b] }) ∨
    (s.params.inDepth ≤ s.inq.length ∧ pushInput b s = { s with inOvf := true }) := by
  by_cases h : s.inq.length < s.params.inDepth
  · exact .inl ⟨h, by simp [pushInput, h]⟩
  · exact .inr ⟨by omega, by simp [pushInput, h]⟩

/-- A pop takes the head of OUTQ and changes nothing else; the value read is that byte with VALID set (20_memory.md R71). -/
theorem popOutput_cases (s : State) :
    (s.outq = [] ∧ outDataWord s = 0 ∧ popOutput s = s) ∨
    (∃ b rest, s.outq = b :: rest ∧ outDataWord s = 0x100#32 ||| b.setWidth 32 ∧
      popOutput s = { s with outq := rest }) := by
  cases h : s.outq with
  | nil =>
    refine .inl ⟨rfl, by simp [outDataWord, h], ?_⟩
    have : popOutput s = { s with outq := [] } := by simp [popOutput, h]
    rw [this, ← h]
  | cons b rest => exact .inr ⟨b, rest, rfl, by simp [outDataWord, h], by simp [popOutput, h]⟩

/-- A read changes the host's record of values, and OUTQ where the register is OUT_DATA (20_memory.md R66). -/
theorem readReg_cases (r : Reg) (s : State) :
    (r ≠ .outData ∧ readReg r s = { s with readLog := regValue r s :: s.readLog }) ∨
    (r = .outData ∧ s.outq = [] ∧ readReg r s = { s with readLog := 0 :: s.readLog }) ∨
    (∃ b rest, r = .outData ∧ s.outq = b :: rest ∧
      readReg r s = { s with outq := rest, readLog := (0x100#32 ||| b.setWidth 32) :: s.readLog }) := by
  cases r with
  | outData =>
    cases h : s.outq with
    | nil =>
      refine .inr (.inl ⟨rfl, rfl, ?_⟩)
      have : readReg .outData s = { s with outq := [], readLog := 0 :: s.readLog } := by
        simp [readReg, readEffect, regValue, outDataWord, popOutput, h]
      rw [this, ← h]
    | cons b rest =>
      exact .inr (.inr ⟨b, rest, rfl, rfl, by simp [readReg, readEffect, regValue, outDataWord, popOutput, h]⟩)
  | _ => exact .inl ⟨by decide, rfl⟩

/-! ## Turns -/

/-- A step is a turn of the agent the schedule names, or of the default agent at its end (20_memory.md R80). -/
theorem step_cases (s : State) :
    (s.sched = [] ∧ engineEnabled s = true ∧ step s = .next (engineStep s)) ∨
    (s.sched = [] ∧ engineEnabled s = false ∧ step s = hostTurn s) ∨
    (∃ agents, s.sched = .host :: agents ∧ step s = hostTurn { s with sched := agents }) ∨
    (∃ agents, s.sched = .engine :: agents ∧ step s = .next (engineStep { s with sched := agents })) ∨
    (∃ agents, s.sched = .resetInput :: agents ∧ step s = .next (resetBlock { s with sched := agents })) := by
  cases h : s.sched with
  | nil => cases he : engineEnabled s <;> simp [step, scheduledTurn, turn, defaultAgent, h, he]
  | cons a agents => cases a <;> simp [step, scheduledTurn, turn, h]

/-- A host turn is the host's next access, or nothing where it has none. -/
theorem hostTurn_cases (s : State) :
    (s.hostAccesses = [] ∧ hostTurn s = .next s) ∨
    (∃ a rest, s.hostAccesses = a :: rest ∧ hostTurn s = hostAccess a { s with hostAccesses := rest }) := by
  cases h : s.hostAccesses with
  | nil => exact .inl ⟨rfl, by simp [hostTurn, h]⟩
  | cons a rest => exact .inr ⟨a, rest, rfl, by simp [hostTurn, h]⟩

end Sys2Proof.Machine
end

