-- ==== Sys2Proof/Laws/PerInstr.lean ====
section
/-! SUPPORT. Claims about all six commands as syntax, one lemma per constructor of Instr. -/

namespace Sys2Proof.Laws.CanonicalWord

/-- The word a command is written as has its reserved bits 31:11 zero, an OPCODE the opcode map gives a meaning, and
TAGLEN zero outside FRAME (30_encoding.md R91, R93, R97). -/
def Statement (i : Instr) : Prop :=
  (encode i).extractLsb' 11 21 = 0 ∧ (opcodeOf (encode i)).toNat ≤ 5 ∧
  ((opcodeOf (encode i)).toNat = 4 ∨ taglenOf (encode i) = 0)

theorem nop : Statement .nop := by unfold Statement; decide

theorem crcInit : Statement .crcInit := by unfold Statement; decide

theorem crcUpdate : Statement .crcUpdate := by unfold Statement; decide

theorem crcCalc : Statement .crcCalc := by unfold Statement; decide

theorem frame (taglen : Nat) : Statement (.frame taglen) := by
  have every : ∀ t : BitVec 3,
      (cmdWord t 0x04).extractLsb' 11 21 = 0 ∧ (opcodeOf (cmdWord t 0x04)).toNat = 4 := by decide
  obtain ⟨reserved, opcode⟩ := every (BitVec.ofNat 3 taglen)
  exact ⟨reserved, opcode.le.trans (by decide), .inl opcode⟩

theorem pack : Statement .pack := by unfold Statement; decide

end Sys2Proof.Laws.CanonicalWord
end

