-- ==== Sys2Proof/Laws/Runs.lean ====
section
/-! SUPPORT. Runs of several steps: how they compose, and that the engine steps alone while the schedule is at its end. -/

namespace Sys2Proof.Machine

theorem runSteps_zero (s : State) : runSteps 0 s = .next s := rfl

theorem runSteps_succ {s t : State} (h : step s = .next t) (k : Nat) : runSteps (k + 1) s = runSteps k t := by
  simp [runSteps, h]

/-- A run continues from where its first part ends. -/
theorem runSteps_add {a b : Nat} {s t : State} {r : Result} (first : runSteps a s = .next t)
    (second : runSteps b t = r) : runSteps (a + b) s = r := by
  induction a generalizing s with
  | zero =>
    rw [runSteps_zero] at first
    cases first
    rwa [Nat.zero_add]
  | succ n ih =>
    rw [Nat.succ_add]
    cases h : step s with
    | next u =>
      rw [runSteps_succ h] at first ⊢
      exact ih first
    | fault f => simp [runSteps, h] at first
    | refused f => simp [runSteps, h] at first

/-- With the schedule at its end, a step the engine can take is the machine's step. -/
theorem step_of_moves {s t : State} (sched_end : s.sched = []) (h : EngineMoves s t) : step s = .next t := by
  obtain ⟨-, -, e⟩ | ⟨-, he, -⟩ | ⟨_, hs, -⟩ | ⟨_, hs, -⟩ | ⟨_, hs, -⟩ := step_cases s
  · rw [e, engineStep_eq h]
  · rw [h.enabled] at he
    cases he
  all_goals
    rw [sched_end] at hs
    cases hs

theorem runSteps_of_moves {s t : State} (sched_end : s.sched = []) (h : EngineMoves s t) :
    runSteps 1 s = .next t := by
  rw [runSteps_succ (step_of_moves sched_end h), runSteps_zero]

/-- The machine's own runs are the host interface's. -/
theorem runSteps_eq_core (k : Nat) (s : State) : Host.Core.run core k s = runSteps k s := by
  induction k generalizing s with
  | zero => rfl
  | succ n ih =>
    have h : core.step s = step s := rfl
    cases hs : step s with
    | next t =>
      rw [hs] at h
      rw [runSteps_succ hs, ← ih t]
      simp [Host.Core.run, h]
    | fault f => cases f
    | refused f =>
      rw [hs] at h
      simp only [Host.Core.run, runSteps, h, hs]
      rfl

end Sys2Proof.Machine
end

