-- ==== Sys2Proof/Machine/Container.lean ====
section
/-! DEFINITION. What the host makes with the block: the container of 42_framer.md section 3 and the access
sequences of the protocol (70_reset_and_hazards.md R237). No step calls any of it; the compressor is an argument, since
it is outside the block (00_scope.md R4). -/

namespace Sys2Proof.Machine

/-- header_payload(W, H, ct), 13 bytes (42_framer.md R175). -/
def headerPayload (w h : Word) (ct : Byte) : List Byte := be32 w ++ be32 h ++ [0x08, ct, 0x00, 0x00, 0x00]

/-- The file's fixed 8-byte signature (42_framer.md R176). -/
def signature : List Byte := [0x89, 0x50, 0x4E, 0x47, 0x0D, 0x0A, 0x1A, 0x0A]

/-- The tag of the header segment (42_framer.md R177; from the spec's general knowledge, log entry 7). -/
def headerTag : Word := 0x49484452

/-- The tag of the pixel-data segment (42_framer.md R177; log entry 7). -/
def pixelTag : Word := 0x49444154

/-- The tag of the terminator segment (42_framer.md R177; log entry 7). -/
def endTag : Word := 0x49454E44

/-- The colour type of a channel count (43_packer.md R182). -/
def colorTypeOf : Channels → Byte
  | .rgb => 2
  | .rgba => 6

/-- The whole file of a pixel buffer, for a compressor given (42_framer.md R176). -/
def containerFile (compress : List Byte → List Byte) (buffer : List Byte) (w h : Word) (c : Channels) : List Byte :=
  signature
    ++ frameBytes (be32 headerTag) (headerPayload w h (colorTypeOf c))
    ++ frameBytes (be32 pixelTag) (compress (packBytes buffer w.toNat h.toNat c.count))
    ++ frameBytes (be32 endTag) []

/-- The accesses that frame `payload` under `tag` with the output drained by `pops` reads and BUSY polled `polls`
times: steps 1 to 5 of the recommended sequence (70_reset_and_hazards.md R237), for a payload that fits INQ. -/
def frameProgram (tag : Word) (payload : List Byte) (pops polls : Nat) : List Access :=
  [clear, wr .tag tag, wr .len (BitVec.ofNat 32 payload.length)] ++ push payload ++
    [cmd (.frame 4)] ++ pop pops ++ waitIdle polls

/-- The accesses that pack a pixel buffer, in the same sequence (70_reset_and_hazards.md R237). -/
def packProgram (buffer : List Byte) (w h : Word) (c : Channels) (pops polls : Nat) : List Access :=
  [clear, wr .width w, wr .height h, wr .cfg ((colorTypeOf c).setWidth 32)] ++
    setbuflen (BitVec.ofNat 64 (w.toNat * h.toNat * c.count)) ++ push buffer ++ [cmd .pack] ++ pop pops ++ waitIdle polls

/-- The accesses that compute the checksum of `bytes` (70_reset_and_hazards.md R237). -/
def checksumProgram (bytes : List Byte) (polls : Nat) : List Access :=
  [clear, wr .len (BitVec.ofNat 32 bytes.length)] ++ push bytes ++ [cmd .crcCalc] ++ waitIdle polls ++ [rd .crcResult]

end Sys2Proof.Machine
end

