-- ==== Sys2Proof/Tests/Slice0.lean ====
section
/-! SUPPORT. Small tests whose expected results are written out from spec/ (95_test_vectors.md and the worked examples
of the rules), and for every statement with hypotheses a witness that meets them. -/

namespace Sys2Proof.Tests

open Sys2Proof Sys2Proof.Machine

/-! ## Helpers -/

/-- The block after reset with the depths of 95_test_vectors.md. -/
def fresh : State := State.resetWith { inDepth := 64, outDepth := 64, base := 0x40 }

/-- The next state of an answer, where there is one. -/
def nextOf : Result → Option State
  | .next s => some s
  | .fault _ => none
  | .refused _ => none

/-- The answer is a refusal for an unsupported access. -/
def isUnsupported : Result → Bool
  | .refused .unsupportedAccess => true
  | .refused (.notModelled _) => false
  | .next _ => false
  | .fault _ => false

/-- STATUS and ERR_CODE of an answer. -/
def flagsOf (r : Result) : Option (Word × BitVec 4) := (nextOf r).map fun s => (statusWord s, s.errCode)

/-- `fresh` ready for a PACK. -/
def packReady (w h : Word) (ct : Byte) (lo hi : Word) : State :=
  { fresh with width := w, height := h, colorType := ct, bufLenLo := lo, bufLenHi := hi }

/-- `fresh` with one access to come, made by the host in the next step. -/
def hostNext (a : Access) (s : State) : State := { s with sched := [.host], hostAccesses := [a] }

/-- `k` busy steps without a reset, with the bytes pushed and popped in them. -/
def drive : Nat → State → Option (List Byte × List Byte × State)
  | 0, s => some ([], [], s)
  | k + 1, s =>
    if busy s && !resetsNext s then
      match step s with
      | .next u => (drive k u).map fun r => (pushedNext s ++ r.1, poppedNext s ++ r.2.1, r.2.2)
      | .fault _ => none
      | .refused _ => none
    else none

theorem drive_whileBusy {k : Nat} {s : State} {r : List Byte × List Byte × State} (h : drive k s = some r) :
    WhileBusy s r.1 r.2.1 r.2.2 := by
  induction k generalizing s r with
  | zero =>
    cases h
    exact .refl s
  | succ k ih =>
    simp only [drive] at h
    split at h
    case isFalse => cases h
    case isTrue guard =>
      obtain ⟨running, no_reset⟩ := Bool.and_eq_true_iff.mp guard
      cases moves : step s with
      | fault r => cases r
      | refused r => simp [moves] at h
      | next u =>
        simp only [moves, Option.map_eq_some_iff] at h
        obtain ⟨rest, run, rfl⟩ := h
        exact .step running (by simpa using no_reset) moves (ih run)

/-! ## Decoding: words written out from 30_encoding.md R91 and R93 -/

theorem test_decode_nop : decode 0b000000000000000000000_000_00000000#32 = .ok .nop := by decide
theorem test_decode_crcInit : decode 0b000000000000000000000_000_00000001#32 = .ok .crcInit := by decide
theorem test_decode_crcUpdate : decode 0b000000000000000000000_000_00000010#32 = .ok .crcUpdate := by decide
theorem test_decode_crcCalc : decode 0b000000000000000000000_000_00000011#32 = .ok .crcCalc := by decide
theorem test_decode_frame : decode 0b000000000000000000000_100_00000100#32 = .ok (.frame 4) := by decide
theorem test_decode_pack : decode 0b000000000000000000000_000_00000101#32 = .ok .pack := by decide
/-- R96, F14: bits 31:11 are ignored in every word, TAGLEN outside FRAME. -/
theorem test_decode_ignored_bits :
    decode 0xFFFFF800#32 = .ok .nop ∧ decode 0x00000702#32 = .ok .crcUpdate ∧
    decode 0xFFFFFC04#32 = .ok (.frame 4) := by decide
/-- R95, P11, P12: the first and the last reserved opcode. -/
theorem test_decode_reserved :
    decode 0x00000006#32 = .error (.reservedOpcode 0x06) ∧
    decode 0x000000FF#32 = .error (.reservedOpcode 0xFF) := by decide
/-- The words the assembler of R97 writes. -/
theorem test_encode_canonical :
    [Instr.nop, .crcInit, .crcUpdate, .crcCalc, .frame 4, .pack, .frame 3].map encode =
      [0x00000000#32, 0x00000001#32, 0x00000002#32, 0x00000003#32, 0x00000404#32, 0x00000005#32,
        0x00000304#32] := by decide
theorem test_decodeTableWord :
    decodeTableWord 32 0x404 = some (.frame 4) ∧ decodeTableWord 32 6 = none ∧ decodeTableWord 64 0 = none := by
  decide

/-! ## WellFormed: one ill-formed term for its one check -/

theorem test_wellFormed_refuses_taglen_eight : (Instr.frame 8).wellFormed = false := by decide
theorem test_wellFormed_admits_taglen_seven : (Instr.frame 7).wellFormed = true := by decide

/-! ## The pure functions -/

/-- V11. -/
theorem test_crcByte_v11 : crcByte 0xFFFFFFFF 0x31 = 0x7C231048#32 := by decide +kernel
/-- V13, V15, V16, read from the table of R142 and computed by the bit form. -/
theorem test_crcTable_v13_v15_v16 :
    [0x01, 0x80, 0xFF].map (fun n : Byte => (crcTableEntry n, crcByte 0 n)) =
      [(0x77073096#32, 0x77073096#32), (0xEDB88320#32, 0xEDB88320#32), (0x2D02EF8D#32, 0x2D02EF8D#32)] := by
  decide +kernel
/-- V2, V5, V9. -/
theorem test_checksum_v2_v5_v9 :
    [[0x00], [0x49, 0x45, 0x4E, 0x44], [0xFF, 0xFF, 0xFF, 0xFF]].map checksum =
      [0xD202EF8D#32, 0xAE426082#32, 0xFFFFFFFF#32] := by decide +kernel
/-- F5. -/
theorem test_frameBytes_f5 :
    frameBytes [0x41, 0x42, 0x43, 0x44] [0x00] =
      [0x00, 0x00, 0x00, 0x01, 0x41, 0x42, 0x43, 0x44, 0x00, 0x74, 0x65, 0xAF, 0xCA] := by decide +kernel
/-- K6. -/
theorem test_packBytes_k6 :
    packBytes [0xA0, 0xA1, 0xA2, 0xA3, 0xA4, 0xA5, 0xA6, 0xA7, 0xA8, 0xA9, 0xAA, 0xAB] 1 3 4 =
      [0x00, 0xA0, 0xA1, 0xA2, 0xA3, 0x00, 0xA4, 0xA5, 0xA6, 0xA7, 0x00, 0xA8, 0xA9, 0xAA, 0xAB] := by decide
/-- S2: the whole file of the scenario, for its illustrative compressor output. -/
theorem test_containerFile_s2 :
    containerFile (fun _ => [0x78, 0xDA, 0x63, 0xE0, 0x12, 0x91, 0x03, 0x00, 0x00, 0x68, 0x00, 0x3D])
        [0x0A, 0x14, 0x1E] 1 1 .rgb =
      [0x89, 0x50, 0x4E, 0x47, 0x0D, 0x0A, 0x1A, 0x0A, 0x00, 0x00, 0x00, 0x0D, 0x49, 0x48, 0x44, 0x52,
        0x00, 0x00, 0x00, 0x01, 0x00, 0x00, 0x00, 0x01, 0x08, 0x02, 0x00, 0x00, 0x00, 0x90, 0x77, 0x53, 0xDE]
        ++ [0x00, 0x00, 0x00, 0x0C, 0x49, 0x44, 0x41, 0x54, 0x78, 0xDA, 0x63, 0xE0, 0x12, 0x91, 0x03, 0x00,
        0x00, 0x68, 0x00, 0x3D, 0x6A, 0xF5, 0x70, 0x5B]
        ++ [0x00, 0x00, 0x00, 0x00, 0x49, 0x45, 0x4E, 0x44, 0xAE, 0x42, 0x60, 0x82] := by decide +kernel

/-! ## One step of each command -/

/-- P10. -/
theorem test_nop_p10 : flagsOf (exec .nop fresh) = some (0x2#32, 0) := by decide
/-- P16: with IE_DONE set the interrupt output rises. -/
theorem test_nop_p16 : flagsOf (exec .nop { fresh with ieDone := true }) = some (0x12#32, 0) := by decide
/-- The worked example of R145. -/
theorem test_crcInit_r145 :
    (nextOf (exec .crcInit { fresh with crcState := 0x340BC6D9 })).map
      (fun s => (s.crcState, regValue .crcResult s, s.done)) = some (0xFFFFFFFF#32, 0x00000000#32, true) := by decide
/-- V25. -/
theorem test_crcUpdate_v25 :
    (nextOf (exec .crcUpdate fresh)).map (fun s => (statusWord s, s.crcState)) =
      some (0x2#32, 0xFFFFFFFF#32) := by decide
/-- V22: the seed is kept at acceptance and the first byte is absorbed into it. -/
theorem test_crcUpdate_v22 :
    (nextOf (exec .crcUpdate { fresh with crcState := 0, len := 1, inq := [0x01] })).map
      (fun s => let t := engineStep s; (t.crcState, regValue .crcResult t, t.phase)) =
      some (0x77073096#32, 0x88F8CF69#32, .idle) := by decide +kernel
/-- V24. -/
theorem test_crcCalc_v24 :
    (nextOf (exec .crcCalc fresh)).map (fun s => (statusWord s, s.crcState, regValue .crcResult s)) =
      some (0x2#32, 0xFFFFFFFF#32, 0x00000000#32) := by decide
/-- V28: the engine has absorbed "a" and waits. -/
theorem test_crcCalc_v28 :
    (nextOf (exec .crcCalc { fresh with crcState := 0x12345678, len := 3, inq := [0x61] })).map
      (fun s => let t := engineStep (engineStep s); (statusWord t, t.crcState, t.inq, t.phase)) =
      some (0x1#32, 0x174841BC#32, [], .crcRun) := by decide +kernel
/-- F10: TAGLEN 0 is rejected. -/
theorem test_frame_f10 : flagsOf (exec (.frame 0) fresh) = some (0x4#32, 2) := by decide
/-- F14: accepted; PHASE = FR_LEN, STATUS 0x1. -/
theorem test_frame_f14 :
    (nextOf (issue 0xFFFFFC04 fresh)).map (fun s => (statusWord s, s.phase)) = some (0x1#32, .frLen) := by decide
/-- K3, K7, K13, K14, K15: the codes and their order. -/
theorem test_pack_rejections :
    [packReady 2 1 6 7 0, packReady 0 1 6 0 0, packReady 0 1 4 0 0, packReady 0 1 6 5 0, packReady 1 1 2 3 1].map
      (fun s => flagsOf (exec .pack s)) =
      [some (0x4#32, 1), some (0x4#32, 4), some (0x4#32, 3), some (0x4#32, 4), some (0x4#32, 1)] := by decide
/-- K16. -/
theorem test_pack_k16 :
    (nextOf (exec .pack (packReady 0x7FFFFFFF 1 6 0xFFFFFFFC 1))).map (fun s => (statusWord s, s.phase)) =
      some (0x1#32, .pkSel) := by decide

/-! ## Accesses and status -/

/-- P11, P15, P17: IllegalCommand when idle, Busy first when running, and the interrupt output. -/
theorem test_reserved_words :
    flagsOf (issue 0x00000006 fresh) = some (0x4#32, 5) ∧
    flagsOf (issue 0x00000006 { fresh with phase := .crcRun, cnt := 1 }) = some (0x5#32, 6) ∧
    flagsOf (issue 0x00000006 { fresh with ieErr := true }) = some (0x14#32, 5) := by decide
/-- P18, P20: the write-one-to-clear bits. -/
theorem test_status_clear :
    flagsOf (hostAccess (wr .status 0x2) { fresh with done := true, ieDone := true }) = some (0x0#32, 0) ∧
    flagsOf (hostAccess (wr .status 0x4) { fresh with err := true, errCode := 5, ieErr := true }) =
      some (0x0#32, 0) := by decide
/-- P21, P28: reserved bits. -/
theorem test_reserved_bits :
    (nextOf (hostAccess (wr .ctrl 0x7FFFFFFF) fresh)).map (regValue .ctrl) = some 0x00000003#32 ∧
    (nextOf (hostAccess (wr .cfg 0x1234) fresh)).map (regValue .cfg) = some 0x00000034#32 := by decide
/-- P22: soft reset. -/
theorem test_srst_p22 :
    (nextOf (hostAccess srst { fresh with len := 5, ieDone := true, crcState := 0, inq := [0x00] })).map
      (fun s => (s.len, regValue .ctrl s, s.crcState, fifoStatusWord s, statusWord s)) =
      some (0#32, 0#32, 0xFFFFFFFF#32, 0#32, 0#32) := by decide
/-- P23: IN_DEPTH = 2 and a third byte. -/
theorem test_push_overflow_p23 :
    (nextOf (hostAccess (wr .inData 0x03)
      { State.resetWith { inDepth := 2, outDepth := 64, base := 0 } with inq := [0x01, 0x02] })).map
      (fun s => (statusWord s, fifoStatusWord s, s.inq)) =
      some (0x8#32, 0x00000002#32, [0x01, 0x02]) := by decide
/-- P24, P25: a pop of an empty OUTQ and of the first byte of a segment. -/
theorem test_pop :
    (nextOf (hostAccess (rd .outData) fresh)).map (fun s => s.readLog) = some [0x00000000#32] ∧
    (nextOf (hostAccess (rd .outData) { fresh with outq := [0x00, 0x49] })).map (fun s => (s.readLog, s.outq)) =
      some ([0x00000100#32], [0x49]) := by decide
/-- V26, V30: CRC_RESULT is the complement, and a write of CRC_STATE while busy is ignored. -/
theorem test_crcState_access :
    (nextOf (hostAccess (wr .crcState 0x12345678) fresh)).map (regValue .crcResult) = some 0xEDCBA987#32 ∧
    (nextOf (hostAccess (wr .crcState 0x12345678) { fresh with phase := .crcRun, cnt := 1 })).map
      (regValue .crcState) = some 0xFFFFFFFF#32 := by decide
/-- R63: a byte access and a misaligned access of the window are refused. -/
theorem test_unsupported_access :
    isUnsupported (hostAccess (.read 0x04 .w8) fresh) = true ∧
    isUnsupported (hostAccess (.write 0x06 .w32 0) fresh) = true := by decide
/-- P29: OUT_DEPTH = 4 and OUTQ full. -/
theorem test_wait_on_output_p29 :
    engineEnabled { State.resetWith { inDepth := 64, outDepth := 4, base := 0 } with
      phase := .frTag, outq := [0, 0, 0, 0] } = false := by decide
/-- Program P2 lines 2, 5 and P3 line 5: settag, cmd FRAME and setbuflen as accesses. -/
theorem test_pseudo_instructions :
    settag 0x49 0x48 0x44 0x52 = .write 0x14 .w32 0x49484452 ∧
    cmd (.frame 4) = .write 0x08 .w32 0x00000404 ∧
    setbuflen 8 = [.write 0x24 .w32 0x00000008, .write 0x28 .w32 0x00000000] ∧
    push [0xFF] = [.write 0x34 .w32 0x000000FF] ∧ clear = .write 0x04 .w32 0x0000000E := by decide
/-- A command placed by withFetchWord is run by the next step. -/
theorem test_withFetchWord :
    flagsOf (step (fresh.withFetchWord 32 0x00000304)) = some (0x4#32, 2) := by decide

/-! ## Witnesses: states and operands that meet the hypotheses of a statement, clause by clause -/

/-- A running command of the given phase with one byte of input and an empty OUTQ. -/
def running (p : Phase) : State := { fresh with phase := p, cnt := 1, rows := 1, sW := 1, sLen := 1, inq := [0x61] }

/-- `running` with OUTQ at OUT_DEPTH. -/
def full (p : Phase) : State :=
  { running p with params := { inDepth := 64, outDepth := 1, base := 0 }, outq := [0x00] }

/-- The invariant as a check that runs. -/
def meetsInv (s : State) : Bool := decide (Inv s)

theorem inv_of_check {s : State} (h : meetsInv s = true) : Inv s := of_decide_eq_true h

theorem witness_DecodeFollowsTheOpcodeMap :
    (0x000000FF#32).extractLsb' 0 8 = 0xFF#8 ∧ 6 ≤ ((0x00000006#32).extractLsb' 0 8).toNat ∧
    [0xFFFFFF00#32, 0x00000001#32, 0x00000002#32, 0x00000003#32, 0x00000704#32, 0x00000005#32].map
      (fun w => w.extractLsb' 0 8) = [0x00#8, 0x01#8, 0x02#8, 0x03#8, 0x04#8, 0x05#8] := by decide

theorem witness_DecodeUndoesEncode :
    [Instr.nop, .crcInit, .crcUpdate, .crcCalc, .frame 0, .frame 7, .pack].map Instr.wellFormed =
      [true, true, true, true, true, true, true] := by decide

theorem witness_EncodeClearsOnlyIgnoredBits :
    decode 0xFFFFFF04#32 = .ok (.frame 7) ∧ decode 0xFFFFFF05#32 = .ok .pack := by decide

theorem witness_StepRunsTheDecodedCommand :
    ∃ s r : State, decode 0x00000404#32 = .ok (.frame 4) ∧
      s.hostAccesses = .write 0x08 .w32 0x00000404 :: [rd .status] ∧ s.sched = .host :: [.engine] ∧
      r.hostAccesses = .write 0x08 .w32 0x00000404 :: [] ∧ r.sched = [] ∧ engineEnabled r = false :=
  ⟨{ fresh with sched := [.host, .engine], hostAccesses := [.write 0x08 .w32 0x00000404, rd .status] },
    { fresh with hostAccesses := [.write 0x08 .w32 0x00000404] }, by decide⟩

theorem witness_FetchWordIsRunByTheNextStep : decode 0xFFFFFC04#32 = .ok (.frame 4) := by decide

theorem witness_StepTakesTheScheduledTurn :
    ({ fresh with sched := [.engine, .host] } : State).sched = .engine :: [.host] ∧
    ({ fresh with sched := [.resetInput] } : State).sched = .resetInput :: [] ∧
    (running .crcRun).sched = [] ∧ engineEnabled (running .crcRun) = true := by decide

/-- An idle block, which NopSetsDoneOnly, CrcInitSetsTheInitialRegister and FrameStartsWithASnapshot start from. -/
theorem witness_idle : fresh.phase = .idle := by decide

theorem witness_CrcUpdateStartsFromTheRegister_and_CrcCalcStartsFromAFreshRegister :
    ({ fresh with len := 0xFFFFFFFF } : State).phase = .idle ∧
    ({ fresh with len := 0xFFFFFFFF } : State).len ≠ 0 ∧ fresh.phase = .idle ∧ fresh.len = 0 := by decide

theorem witness_FrameRejectsOtherTagLengths :
    fresh.phase = .idle ∧ (0 ≠ 4 ∧ 3 ≠ 4 ∧ 5 ≠ 4 ∧ 7 ≠ 4) := by decide

/-- The smallest and the widest image, and the largest of all (R191). -/
theorem witness_PackStartsWithASnapshot :
    ∀ s ∈ [packReady 1 1 2 3 0, packReady 0x7FFFFFFF 1 6 0xFFFFFFFC 1,
        packReady 0x7FFFFFFF 0x7FFFFFFF 6 0x00000004 0xFFFFFFFC],
      s.phase = .idle ∧ 1 ≤ s.width.toNat ∧ s.width.toNat ≤ 0x7FFFFFFF ∧ 1 ≤ s.height.toNat ∧
      s.height.toNat ≤ 0x7FFFFFFF ∧
      ((s.colorType = 2 ∧
          s.bufLenHi.toNat * 2 ^ 32 + s.bufLenLo.toNat = s.width.toNat * s.height.toNat * 3) ∨
       (s.colorType = 6 ∧
          s.bufLenHi.toNat * 2 ^ 32 + s.bufLenLo.toNat = s.width.toNat * s.height.toNat * 4)) := by decide

theorem witness_PackChecksInOrder_color :
    ∀ s ∈ [packReady 1 1 0 3 0, packReady 0 1 3 0 0, packReady 1 1 0xFF 3 0],
      s.phase = .idle ∧ s.colorType ≠ 2 ∧ s.colorType ≠ 6 := by decide

theorem witness_PackChecksInOrder_range :
    ∀ s ∈ [packReady 0 1 6 0 0, packReady 0x80000000 1 6 0 2, packReady 1 0 2 0 0, packReady 1 0xFFFFFFFF 2 0 0],
      s.phase = .idle ∧ (s.colorType = 2 ∨ s.colorType = 6) ∧
      (s.width.toNat = 0 ∨ 0x7FFFFFFF < s.width.toNat ∨ s.height.toNat = 0 ∨
        0x7FFFFFFF < s.height.toNat) := by decide

theorem witness_PackChecksInOrder_length :
    (∀ s ∈ [packReady 2 1 6 7 0, packReady 2 1 6 9 0], s.phase = .idle ∧ s.colorType = 6 ∧
      1 ≤ s.width.toNat ∧ s.width.toNat ≤ 0x7FFFFFFF ∧ 1 ≤ s.height.toNat ∧ s.height.toNat ≤ 0x7FFFFFFF ∧
      s.bufLenHi.toNat * 2 ^ 32 + s.bufLenLo.toNat ≠ s.width.toNat * s.height.toNat * 4) ∧
    (∀ s ∈ [packReady 1 1 2 3 1], s.phase = .idle ∧ s.colorType = 2 ∧
      1 ≤ s.width.toNat ∧ s.width.toNat ≤ 0x7FFFFFFF ∧ 1 ≤ s.height.toNat ∧ s.height.toNat ≤ 0x7FFFFFFF ∧
      s.bufLenHi.toNat * 2 ^ 32 + s.bufLenLo.toNat ≠ s.width.toNat * s.height.toNat * 3) := by decide

/-- A running command, which BusyRejectsEveryCommand starts from. -/
theorem witness_BusyRejectsEveryCommand : (running .pkSel).phase ≠ .idle ∧ (running .crcRun).phase ≠ .idle := by
  decide

theorem witness_ReservedOpcodesRejected :
    fresh.phase = .idle ∧ 6 ≤ ((0x00000006#32).extractLsb' 0 8).toNat ∧
    6 ≤ ((0xFFFFFFFF#32).extractLsb' 0 8).toNat := by decide

/-- An accepted command of each of the forms of IssueFrame. -/
theorem witness_IssueFrame :
    ∀ i ∈ [Instr.nop, .crcInit, .crcUpdate, .crcCalc, .frame 4, .frame 3, .pack],
      (nextOf (exec i (packReady 1 1 2 3 0))).isSome = true := by decide

theorem witness_CrcRunStepAbsorbsAByte :
    (running .crcRun).phase = .crcRun ∧ (running .crcRun).inq = 0x61 :: [] ∧ (running .crcRun).cnt = 1 ∧
    ({ running .crcRun with cnt := 2 } : State).inq = 0x61 :: [] ∧
    2 ≤ ({ running .crcRun with cnt := 2 } : State).cnt := by decide

/-- For FrLenStepEmitsALengthByte and FrCrcStepEmitsAChecksumByte: each IDX, with OUTQ empty and one short of full. -/
theorem witness_FrLen_and_FrCrc_steps :
    ∀ p ∈ [Phase.frLen, .frCrc], ∀ i ∈ [(0 : Fin 4), 1, 2, 3], ∀ n ∈ [0, 63],
      ({ running p with idx := i, outq := List.replicate n 0 } : State).phase = p ∧
      ({ running p with idx := i, outq := List.replicate n 0 } : State).idx = i ∧
      ({ running p with idx := i, outq := List.replicate n 0 } : State).outq.length < 64 := by decide

/-- For FrTagStepEmitsATagByte: each byte of a tag, and both lengths of the last clause. -/
theorem witness_FrTagStepEmitsATagByte :
    (running .frTag).phase = .frTag ∧ (running .frTag).outq.length < (running .frTag).params.outDepth ∧
    (0x49#8 = (0x49484452#32).extractLsb' 24 8 ∧ 0x48#8 = (0x49484452#32).extractLsb' 16 8 ∧
      0x44#8 = (0x49484452#32).extractLsb' 8 8 ∧ 0x52#8 = (0x49484452#32).extractLsb' 0 8) ∧
    (∀ (i : Fin 4) (n : Word),
      ({ running .frTag with idx := i, sTag := 0x49484452, sLen := n } : State).idx = i ∧
      ({ running .frTag with idx := i, sTag := 0x49484452, sLen := n } : State).sLen = n) :=
  ⟨by decide, by decide, by decide, fun _ _ => ⟨rfl, rfl⟩⟩

theorem witness_FrPayStepPassesAByteThrough :
    ∀ n ∈ [1, 2], ({ running .frPay with cnt := n } : State).phase = .frPay ∧
      ({ running .frPay with cnt := n } : State).inq = 0x61 :: [] ∧
      ({ running .frPay with cnt := n } : State).cnt = n ∧
      ({ running .frPay with cnt := n } : State).outq.length < 64 := by decide

theorem witness_PkSelStepEmitsTheFilterByte :
    ∀ c ∈ [Channels.rgb, .rgba], ({ running .pkSel with sC := c } : State).phase = .pkSel ∧
      ({ running .pkSel with sC := c } : State).outq.length < 64 ∧
      ({ running .pkSel with sC := c } : State).sC = c := by decide

theorem witness_PkRowStepCopiesASample :
    ∀ n ∈ [1, 2], ∀ r ∈ [1, 2], ({ running .pkRow with cnt := n, rows := r } : State).phase = .pkRow ∧
      ({ running .pkRow with cnt := n, rows := r } : State).inq = 0x61 :: [] ∧
      ({ running .pkRow with cnt := n, rows := r } : State).cnt = n ∧
      ({ running .pkRow with cnt := n, rows := r } : State).rows = r ∧
      ({ running .pkRow with cnt := n, rows := r } : State).outq.length < 64 := by decide

theorem witness_EngineWaitsExactlyWhenItsNeedsAreUnmet :
    (∀ p ∈ [Phase.crcRun, .frPay, .pkRow], ({ running p with inq := [] } : State).inq = [] ∧
      ({ running p with inq := [] } : State).phase = p) ∧
    (∀ p ∈ [Phase.frLen, .frTag, .frCrc, .pkSel, .frPay, .pkRow],
      (full p).params.outDepth ≤ (full p).outq.length ∧ (full p).phase = p) ∧
    (∀ p ∈ [Phase.crcRun, .frLen, .frTag, .frPay, .frCrc, .pkSel, .pkRow], (running p).phase ≠ .idle ∧
      (running p).inq ≠ [] ∧ (running p).outq.length < (running p).params.outDepth) := by decide

/-- The invariant in every phase, for EngineStepKeepsTheResult, EngineStepsAreCounted and StepKeepsTheInvariant. -/
theorem witness_Inv :
    Inv fresh ∧ (∀ p ∈ [Phase.crcRun, .frLen, .frTag, .frPay, .frCrc, .pkSel, .pkRow],
      Inv (running p) ∧ engineEnabled (running p) = true) := by
  have all : ∀ p ∈ [Phase.crcRun, .frLen, .frTag, .frPay, .frCrc, .pkSel, .pkRow],
      meetsInv (running p) = true ∧ engineEnabled (running p) = true := by decide
  exact ⟨by decide, fun p mem => ⟨inv_of_check (all p mem).1, (all p mem).2⟩⟩

theorem witness_EngineStepsAreCounted :
    fresh.phase = .idle ∧ (nextOf (exec .crcUpdate fresh)).isSome = true ∧
    (nextOf (exec .crcCalc fresh)).isSome = true ∧ (nextOf (exec (.frame 4) fresh)).isSome = true ∧
    (packReady 1 1 2 3 0).phase = .idle ∧
    (nextOf (exec .pack (packReady 1 1 2 3 0))).map (fun s => s.phase) = some .pkSel := by decide

/-- No bytes, and bytes with more behind them. -/
theorem witness_ChecksumRunsToCompletion :
    (fresh.phase = .idle ∧ fresh.sched = [] ∧ fresh.inq = [] ++ [] ∧ ([] : List Byte).length = fresh.len.toNat) ∧
    (∀ s ∈ [({ fresh with len := 2, inq := [0x61, 0x62, 0x63] } : State)],
      s.phase = .idle ∧ s.sched = [] ∧ s.inq = [0x61, 0x62] ++ [0x63] ∧
      ([0x61, 0x62] : List Byte).length = s.len.toNat) := by decide

/-- A segment that fills OUTQ exactly. -/
theorem witness_FrameRunsToCompletion :
    ∀ s ∈ [({ fresh with len := 2, inq := [0x68, 0x69, 0xFF], outq := List.replicate 50 0 } : State)],
      s.phase = .idle ∧ s.sched = [] ∧ s.inq = [0x68, 0x69] ++ [0xFF] ∧
      ([0x68, 0x69] : List Byte).length = s.len.toNat ∧
      s.outq.length + (12 + s.len.toNat) ≤ s.params.outDepth := by decide

theorem witness_PackRunsToCompletion :
    ∀ s ∈ [({ packReady 1 1 2 3 0 with inq := [0x0A, 0x14, 0x1E, 0xFF], outq := List.replicate 60 0 } : State)],
      s.phase = .idle ∧ s.sched = [] ∧ s.colorType = 2 ∧ 1 ≤ s.width.toNat ∧ s.width.toNat ≤ 0x7FFFFFFF ∧
      1 ≤ s.height.toNat ∧ s.height.toNat ≤ 0x7FFFFFFF ∧
      s.bufLenHi.toNat * 2 ^ 32 + s.bufLenLo.toNat = s.width.toNat * s.height.toNat * Channels.rgb.count ∧
      s.inq = [0x0A, 0x14, 0x1E] ++ [0xFF] ∧
      ([0x0A, 0x14, 0x1E] : List Byte).length = s.width.toNat * s.height.toNat * Channels.rgb.count ∧
      s.outq.length + s.height.toNat * (1 + s.width.toNat * Channels.rgb.count) ≤ s.params.outDepth := by decide

/-- A run that meets the hypotheses of a statement over every schedule: `k` steps of the machine from the state the
command leaves, to an idle one. -/
theorem run_witness {k : Nat} {i : Instr} {s t : State} (issued : exec i s = .next t)
    (ends : ((drive k t).map fun r => r.2.2.phase) = some .idle) :
    ∃ pushed popped u, exec i s = .next t ∧ WhileBusy t pushed popped u ∧ u.phase = .idle := by
  obtain ⟨r, run, idle⟩ := Option.map_eq_some_iff.mp ends
  exact ⟨r.1, r.2.1, r.2.2, issued, drive_whileBusy run, idle⟩

/-- A CRC_UPDATE and a CRC_CALC whose one byte the host pushes while they run. -/
theorem witness_ChecksumUnderEverySchedule :
    ∃ s : State, Inv s ∧ s.phase = .idle ∧
      (∃ t pushed popped u, exec .crcUpdate s = .next t ∧ WhileBusy t pushed popped u ∧ u.phase = .idle) ∧
      (∃ t pushed popped u, exec .crcCalc s = .next t ∧ WhileBusy t pushed popped u ∧ u.phase = .idle) :=
  ⟨{ fresh with len := 1, sched := [.engine, .host, .engine], hostAccesses := [wr .inData 0x61] },
    by decide, rfl, ⟨_, run_witness (k := 3) rfl (by decide)⟩, ⟨_, run_witness (k := 3) rfl (by decide)⟩⟩

/-- A FRAME with no payload whose first byte the host pops while it runs. -/
theorem witness_FrameUnderEverySchedule :
    ∃ s : State, Inv s ∧ s.phase = .idle ∧
      (∃ t pushed popped u, exec (.frame 4) s = .next t ∧ WhileBusy t pushed popped u ∧ u.phase = .idle) :=
  ⟨{ fresh with sched := [.engine, .host], hostAccesses := [rd .outData] },
    by decide, rfl, ⟨_, run_witness (k := 13) rfl (by decide +kernel)⟩⟩

/-- A PACK of one pixel whose last sample the host pushes while it runs. -/
theorem witness_PackUnderEverySchedule :
    ∃ s : State, Inv s ∧ s.phase = .idle ∧
      (∃ t, t.phase = .pkSel ∧
        ∃ pushed popped u, exec .pack s = .next t ∧ WhileBusy t pushed popped u ∧ u.phase = .idle) :=
  ⟨{ packReady 1 1 2 3 0 with
      inq := [0x0A, 0x14], sched := [.engine, .host], hostAccesses := [wr .inData 0x1E] },
    by decide, rfl, ⟨_, rfl, run_witness (k := 5) rfl (by decide)⟩⟩

/-- A push, a pop and a write of CTRL that does not reset, while a command runs. -/
theorem witness_HostCannotDisturbARunningCommand :
    ∀ a ∈ [wr .inData 0xFF, rd .outData, wr .ctrl 0x7FFFFFFF, wr .cmd 0x00000404, wr .len 7],
      busy (running .frPay) = true ∧ (nextOf (hostAccess a (running .frPay))).isSome = true ∧
      a ≠ .write 0x00 .w32 0x80000000 ∧ (0x7FFFFFFF#32).getLsbD 31 = false := by decide

/-- The last engine step of a checksum, and a soft reset of one. -/
theorem witness_CommandsEndByCompletionOrReset :
    (Inv (running .crcRun) ∧ busy (running .crcRun) = true ∧
      (nextOf (step (running .crcRun))).map (fun t => t.phase) = some .idle) ∧
    (Inv (hostNext srst (running .frLen)) ∧ busy (hostNext srst (running .frLen)) = true ∧
      (nextOf (step (hostNext srst (running .frLen)))).map (fun t => t.phase) = some .idle) :=
  ⟨⟨by decide, by decide⟩, by decide, by decide⟩

theorem witness_SegmentCarriesItsChecksum : ([0x49, 0x45, 0x4E, 0x44] : List Byte).length = 4 := by decide

theorem witness_PackingIsLossless : ([0x0A, 0x14, 0x1E] : List Byte).length = 1 * 1 * 3 := by decide

theorem witness_PackCountsFitSixtyFourBits :
    (checkPack (packReady 0x7FFFFFFF 0x7FFFFFFF 6 0x00000004 0xFFFFFFFC)).isOk = true ∧
    (checkPack (packReady 1 1 2 3 0)).isOk = true := by decide

/-- A legal configuration, the last address of its window, and an access on either side of the window. -/
theorem witness_AddressesNameRegisters :
    fresh.params.Legal ∧ fresh.params.base ≤ 0x7C ∧ 0x7C < fresh.params.base + 64 ∧ 0x7C % 4 = 0 ∧
    0x3C + widthBytes .w32 ≤ fresh.params.base ∧ fresh.params.base + 64 ≤ 0x80 := by decide

theorem witness_UnsupportedAccessesRefusedOutsideOnesIgnored :
    ((0 : Int) ≤ 63 ∧ (63 : Int) < 64 ∧ (63 : Int) % 4 ≠ 0) ∧ ((0 : Int) ≤ 0 ∧ (0 : Int) < 64 ∧ Width.w8 ≠ .w32) ∧
    (-4 : Int) + widthBytes .w32 ≤ 0 ∧ (64 : Int) ≤ 64 := by decide

theorem witness_StatusWordsHaveTheirBits : Inv fresh ∧ Inv (full .frCrc) := ⟨by decide, by decide⟩

theorem witness_PopReturnsAndRemovesTheHead :
    (full .frCrc).outq = 0x00 :: [] ∧ fresh.outq = [] := by decide

theorem witness_PushAppendsOrOverflows :
    ∀ p ∈ [({ inDepth := 1, outDepth := 1, base := 0 } : Params)],
      (State.resetWith p).inq.length < (State.resetWith p).params.inDepth ∧
      ({ State.resetWith p with inq := [0x00] } : State).params.inDepth ≤ 1 := by decide

theorem witness_RegisterWritesStoreOrAreIgnored :
    (0x7FFFFFFF#32).getLsbD 31 = false ∧ fresh.phase = .idle ∧ (running .frCrc).phase ≠ .idle := by decide

theorem witness_ResetSetsTheResetValues : (0x80000000#32).getLsbD 31 = true := by decide

theorem witness_StepKeepsTheInvariant :
    Inv (running .pkRow) ∧ (nextOf (step (running .pkRow))).isSome = true ∧
    Inv (hostNext (wr .cmd 0x00000404) fresh) ∧
    (nextOf (step (hostNext (wr .cmd 0x00000404) fresh))).isSome = true :=
  ⟨by decide, by decide, by decide, by decide⟩

/-- A host write of each of two operand registers in the coming step, which changes the register. -/
theorem witness_OnlyTheHostChangesOperands :
    (resetsNext (hostNext (wr .len 5) fresh) = false ∧
      (nextOf (step (hostNext (wr .len 5) fresh))).map (fun t => t.len) = some 5) ∧
    (resetsNext (hostNext (wr .bufLenHi 7) fresh) = false ∧
      (nextOf (step (hostNext (wr .bufLenHi 7) fresh))).map (fun t => t.bufLenHi) = some 7) ∧
    (resetsNext (hostNext (wr .tag 1) fresh) = false ∧
      (nextOf (step (hostNext (wr .tag 1) fresh))).map (fun t => t.tag) = some 1) ∧
    (resetsNext (hostNext (wr .width 2) fresh) = false ∧
      (nextOf (step (hostNext (wr .width 2) fresh))).map (fun t => t.width) = some 2) ∧
    (resetsNext (hostNext (wr .height 3) fresh) = false ∧
      (nextOf (step (hostNext (wr .height 3) fresh))).map (fun t => t.height) = some 3) ∧
    (resetsNext (hostNext (wr .cfg 0x106) fresh) = false ∧
      (nextOf (step (hostNext (wr .cfg 0x106) fresh))).map (fun t => t.colorType) = some 6) ∧
    (resetsNext (hostNext (wr .bufLenLo 4) fresh) = false ∧
      (nextOf (step (hostNext (wr .bufLenLo 4) fresh))).map (fun t => t.bufLenLo) = some 4) := by decide

/-- A rejected word and a discarded byte. -/
theorem witness_ErrorFlagsRiseOnlyByTheirCauses :
    (fresh.err = false ∧
      (nextOf (step (hostNext (wr .cmd 0x000000FF) fresh))).map (fun t => t.err) = some true) ∧
    (∀ s ∈ [({ State.resetWith { inDepth := 1, outDepth := 1, base := 0 } with inq := [0x00] } : State)],
      s.inOvf = false ∧
      (nextOf (step (hostNext (wr .inData 0x01) s))).map (fun t => t.inOvf) = some true) := by decide

end Sys2Proof.Tests
end

section
/-! PROOFS. Reads of the register window: a 32-bit read at a register's offset reads that register, and the pop of
OUT_DATA (20_memory.md R62, R71). -/

namespace Sys2Proof.Machine

/-- A 32-bit read at the offset of a register reaches the block and reads that register (20_memory.md R61, R62). -/
theorem hostAccess_read_regOffset (r : Reg) (s : State) :
    hostAccess (.read (regOffset r) .w32) s = .next (readReg r s) := by
  have names : accessReg (regOffset r) .w32 = some r := accessReg_regOffset r
  obtain ⟨-, -, reaches⟩ := accessReg_some names
  simp [hostAccess, names, reaches]

/-- OR and concatenation write the word of a popped byte alike: appending `b` is by definition the OR of the shifted
upper bits with `b`. -/
theorem validByteWord_eq_append (b : Byte) : (0x100#32 ||| b.setWidth 32 : Word) = 0#23 ++ 1#1 ++ b := rfl

/-- A read of OUT_DATA with a byte in OUTQ returns the head with VALID set and removes it (20_memory.md R71). -/
theorem readReg_outData_cons {s : State} {b : Byte} {rest : List Byte} (h : s.outq = b :: rest) :
    readReg .outData s = { s with outq := rest, readLog := (0#23 ++ 1#1 ++ b) :: s.readLog } := by
  obtain ⟨other, -⟩ | ⟨-, empty, -⟩ | ⟨head, tail, -, split, read⟩ := readReg_cases .outData s
  · exact absurd rfl other
  · simp [h] at empty
  · obtain ⟨rfl, rfl⟩ := List.cons.inj (h.symm.trans split)
    rw [read, validByteWord_eq_append]

/-- A read of OUT_DATA with OUTQ empty returns 0 and removes nothing (20_memory.md R71). -/
theorem readReg_outData_nil {s : State} (h : s.outq = []) :
    readReg .outData s = { s with readLog := 0 :: s.readLog } := by
  obtain ⟨other, -⟩ | ⟨-, -, read⟩ | ⟨head, tail, -, split, -⟩ := readReg_cases .outData s
  · exact absurd rfl other
  · exact read
  · simp [h] at split

/-- Settles O49: the access is a read of OUT_DATA, whose two cases are those of OUTQ. -/
theorem popReturnsAndRemovesTheHead : Obligations.PopReturnsAndRemovesTheHead := by
  intro s b rest
  have access : hostAccess (.read 0x38 .w32) s = .next (readReg .outData s) := hostAccess_read_regOffset .outData s
  rw [access]
  exact ⟨fun h => congrArg _ (readReg_outData_cons h), fun h => congrArg _ (readReg_outData_nil h)⟩

end Sys2Proof.Machine
end

section
/-! PROOFS. The opcode map: the one outcome of decoding for each OPCODE, and the rejection of a reserved one
(30_encoding.md R94, R95). -/

namespace Sys2Proof

/-! ## The outcome of decoding, by OPCODE -/

theorem decode_nop {w : Word} (h : opcodeOf w = 0x00) : decode w = .ok .nop := by simp [decode, h]

theorem decode_crcInit {w : Word} (h : opcodeOf w = 0x01) : decode w = .ok .crcInit := by simp [decode, h]

theorem decode_crcUpdate {w : Word} (h : opcodeOf w = 0x02) : decode w = .ok .crcUpdate := by simp [decode, h]

theorem decode_crcCalc {w : Word} (h : opcodeOf w = 0x03) : decode w = .ok .crcCalc := by simp [decode, h]

theorem decode_frame {w : Word} (h : opcodeOf w = 0x04) : decode w = .ok (.frame (taglenOf w).toNat) := by
  simp [decode, h]

theorem decode_pack {w : Word} (h : opcodeOf w = 0x05) : decode w = .ok .pack := by simp [decode, h]

/-- An OPCODE from 0x06 on misses the six arms of the commands, so the last arm answers. -/
theorem decode_reserved {w : Word} (h : 6 ≤ (opcodeOf w).toNat) :
    decode w = .error (.reservedOpcode (opcodeOf w)) := by
  unfold decode
  split
  case h_7 => rfl
  all_goals omega

/-- Settles O1: one lemma for each OPCODE of the map, and one for all the reserved ones. -/
theorem decodeFollowsTheOpcodeMap : Obligations.DecodeFollowsTheOpcodeMap := fun _ =>
  ⟨decode_nop, decode_crcInit, decode_crcUpdate, decode_crcCalc, decode_frame, decode_pack, decode_reserved⟩

namespace Machine

/-- A word that is no command goes to the block's rejection (40_commands.md R111). -/
theorem issue_of_decode_error {w : Word} {e : DecodeError} (h : decode w = .error e) (s : State) :
    issue w s = rejectIllegal s := by
  simp [issue, h]

/-- Settles O17: the word decodes to the reserved outcome, and the idle block's check answers IllegalCommand. -/
theorem reservedOpcodesRejected : Obligations.ReservedOpcodesRejected := by
  intro s w idle reserved
  calc issue w s
    _ = rejectIllegal s := issue_of_decode_error (decode_reserved reserved) s
    _ = .next (reject .illegalCommand s) := issueCommand_error idle .illegalCommand _

end Machine

end Sys2Proof
end

section
/-! PROOFS. How a running command ends: the engine's last step, or a reset; no other turn moves PHASE (40_commands.md
R113, R122). -/

namespace Sys2Proof.Machine

/-! ## The engine -/

/-- An engine step that leads to IDLE is the last one of its command, and it completes the command (40_commands.md R116,
R119). The counters' lower bounds leave one byte, one row and one checksum byte to go. -/
theorem EngineMoves.last_of_idle {s t : State} (move : EngineMoves s t) (running : s.phase ≠ .idle) (ok : PhaseOk s)
    (ended : t.phase = .idle) : remainingSteps s = 1 ∧ t.done = true := by
  obtain ⟨crcOk, -, -, rowOk⟩ := ok
  cases move with
  | crcLast b rest at_phase input last =>
    have := crcOk at_phase
    exact ⟨by simp only [remainingSteps, at_phase]; omega, rfl⟩
  | sumLast at_phase room last => exact ⟨by simp [remainingSteps, at_phase, last], rfl⟩
  | rowLast b rest at_phase input room last lastRow =>
    obtain ⟨row, -, -, count, -⟩ := rowOk at_phase
    have count_one : s.cnt = 1 := by omega
    have row_one : s.rows = 1 := by omega
    exact ⟨by simp [remainingSteps, at_phase, count_one, row_one], rfl⟩
  | lenLast | tagLastEmpty | tagLast | payLast | select | rowEnd => cases ended
  | crcMore | lenMore | tagMore | payMore | sumMore | rowMore => exact absurd ended running

/-- An engine turn that leads a running command to IDLE is its last step: a wait would leave it running. -/
theorem engineStep_last_of_idle {s : State} (running : s.phase ≠ .idle) (ok : PhaseOk s)
    (ended : (engineStep s).phase = .idle) : remainingSteps s = 1 ∧ (engineStep s).done = true := by
  cases enabled : engineEnabled s with
  | true => exact (engineStep_moves enabled).last_of_idle running ok ended
  | false =>
    rw [engineStep_waits enabled] at ended
    exact absurd ended running

/-! ## The host -/

@[simp] theorem clearFlags_phase (v : Word) (s : State) : (clearFlags v s).phase = s.phase := by
  unfold clearFlags
  split_ifs <;> rfl

theorem writeCtrl_phase {v : Word} (noReset : v.getLsbD 31 = false) (s : State) : (writeCtrl v s).phase = s.phase := by
  rw [writeCtrl, noReset]
  rfl

@[simp] theorem writeCrcState_phase (v : Word) (s : State) : (writeCrcState v s).phase = s.phase := by
  unfold writeCrcState
  split <;> rfl

@[simp] theorem pushInput_phase (b : Byte) (s : State) : (pushInput b s).phase = s.phase := by
  obtain ⟨-, e⟩ | ⟨-, e⟩ := pushInput_cases b s <;> rw [e]

@[simp] theorem readReg_phase (r : Reg) (s : State) : (readReg r s).phase = s.phase := by
  obtain ⟨-, e⟩ | ⟨-, -, e⟩ | ⟨_, _, -, -, e⟩ := readReg_cases r s <;> rw [e]

/-- A word written to CMD while a command runs is rejected, which leaves PHASE alone (40_commands.md R113). -/
theorem issue_phase_of_running {w : Word} {s t : State} (running : s.phase ≠ .idle) (h : issue w s = .next t) :
    t.phase = s.phase := by
  obtain ⟨i, -, command⟩ | ⟨-, -, illegal⟩ := issue_cases w s
  · obtain ⟨k, rfl⟩ | ⟨idle, -⟩ := exec_cases (command.symm.trans h)
    · exact reject_phase k s
    · exact absurd idle running
  · obtain ⟨k, rejected⟩ := rejectIllegal_next s
    cases h.symm.trans (illegal.trans rejected)
    exact reject_phase k s

/-- The access is a write of CTRL with bit 31 set, the reset CTRL.SRST (70_reset_and_hazards.md R232). -/
def Access.SetsSrst (a : Access) : Prop :=
  ∃ offset width v, a = .write offset width v ∧ accessReg offset width = some .ctrl ∧ v.getLsbD 31 = true

/-- Among the writes of registers, only CTRL.SRST moves the PHASE of a running command (10_state.md R31). -/
theorem writeReg_phase_of_running {r : Reg} {v : Word} {s t : State} (running : s.phase ≠ .idle)
    (h : writeReg r v s = .next t) : t.phase = s.phase ∨ (r = .ctrl ∧ v.getLsbD 31 = true) := by
  cases r with
  | cmd => exact .inl (issue_phase_of_running running h)
  | ctrl =>
    cases h
    cases srst : v.getLsbD 31 with
    | true => exact .inr ⟨rfl, rfl⟩
    | false => exact .inl (writeCtrl_phase srst s)
  | status => cases h; exact .inl (clearFlags_phase v s)
  | crcState => cases h; exact .inl (writeCrcState_phase v s)
  | inData => cases h; exact .inl (pushInput_phase _ s)
  | len | tag | width | height | cfg | bufLenLo | bufLenHi | errCode | crcResult | outData | fifoStatus =>
    cases h; exact .inl rfl

/-- Among the host's accesses, only CTRL.SRST moves the PHASE of a running command (40_commands.md R122). -/
theorem hostAccess_phase_of_running {a : Access} {s t : State} (running : s.phase ≠ .idle)
    (h : hostAccess a s = .next t) : t.phase = s.phase ∨ a.SetsSrst := by
  obtain ⟨-, e⟩ | ⟨-, e⟩ | ⟨_, _, r, -, -, e⟩ | ⟨offset, width, v, r, rfl, names, e⟩ := hostAccess_cases a s
  · cases e.symm.trans h
    exact .inl rfl
  · cases e.symm.trans h
  · cases e.symm.trans h
    exact .inl (readReg_phase r s)
  · obtain kept | ⟨rfl, srst⟩ := writeReg_phase_of_running running (e.symm.trans h)
    · exact .inl kept
    · exact .inr ⟨offset, width, v, rfl, names, srst⟩

/-- A host turn moves the PHASE of a running command only where its access is CTRL.SRST. -/
theorem hostTurn_phase_of_running {s t : State} (running : s.phase ≠ .idle) (h : hostTurn s = .next t) :
    t.phase = s.phase ∨ ∃ a rest, s.hostAccesses = a :: rest ∧ a.SetsSrst := by
  obtain ⟨-, e⟩ | ⟨a, rest, accesses, e⟩ := hostTurn_cases s
  · cases e.symm.trans h
    exact .inl rfl
  · have access := hostAccess_phase_of_running (s := { s with hostAccesses := rest }) running (e.symm.trans h)
    exact access.imp_right fun srst => ⟨a, rest, accesses, srst⟩

/-! ## The reset of the coming step -/

theorem resetsNext_of_resetInput {s : State} (moves : comingAgent s = .resetInput) : resetsNext s = true := by
  simp [resetsNext, moves]

theorem resetsNext_of_setsSrst {s : State} {a : Access} {rest : List Access} (moves : comingAgent s = .host)
    (accesses : s.hostAccesses = a :: rest) (h : a.SetsSrst) : resetsNext s = true := by
  obtain ⟨offset, width, v, rfl, names, srst⟩ := h
  have write : comingWrite s = some (.ctrl, v) := by simp [comingWrite, comingAccess, moves, accesses, names]
  simp [resetsNext, write, srst]

/-- A step in which the host moves ends a running command only by CTRL.SRST. -/
theorem resetsNext_of_hostTurn_idle {s t : State} {agents : List Agent} (moves : comingAgent s = .host)
    (running : s.phase ≠ .idle) (h : hostTurn { s with sched := agents } = .next t) (ended : t.phase = .idle) :
    resetsNext s = true := by
  obtain kept | ⟨a, rest, accesses, srst⟩ := hostTurn_phase_of_running (s := { s with sched := agents }) running h
  · exact absurd (kept.symm.trans ended) running
  · exact resetsNext_of_setsSrst moves accesses srst

/-- Settles O39, by the agent that moves: the engine ends a command by its last step, the host by CTRL.SRST, and the
reset input by itself. -/
theorem commandsEndByCompletionOrReset : Obligations.CommandsEndByCompletionOrReset := by
  intro s t inv hbusy h ended
  obtain ⟨-, -, -, ok⟩ := inv
  have running : s.phase ≠ .idle := (busy_iff s).mp hbusy
  obtain ⟨-, -, e⟩ | ⟨sched, waits, e⟩ | ⟨agents, sched, e⟩ | ⟨agents, -, e⟩ | ⟨agents, sched, -⟩ := step_cases s
  · cases e.symm.trans h
    exact .inl (engineStep_last_of_idle running ok ended)
  · have moves : comingAgent s = .host := by simp [comingAgent, sched, defaultAgent, waits]
    exact .inr (resetsNext_of_hostTurn_idle (agents := s.sched) moves running (e.symm.trans h) ended)
  · have moves : comingAgent s = .host := by simp [comingAgent, sched]
    exact .inr (resetsNext_of_hostTurn_idle moves running (e.symm.trans h) ended)
  · cases e.symm.trans h
    exact .inl (engineStep_last_of_idle (s := { s with sched := agents }) running ok ended)
  · exact .inr (resetsNext_of_resetInput (by simp [comingAgent, sched]))

end Sys2Proof.Machine
end

section
/-! PROOFS. The engine's turn in phase CRC_RUN: a wait for input, or the step that absorbs the head byte
(41_checksum.md R148). -/

namespace Sys2Proof.Machine

/-- A phase that takes an input byte has no step where INQ is empty (40_commands.md R118). -/
theorem engineEnabled_of_inq_nil {s : State} (needs : needsInput s.phase = true) (empty : s.inq = []) :
    engineEnabled s = false := by
  simp [engineEnabled, needs, empty]

/-- Settles O20: without a byte the engine waits; with one, CNT decides which of the two moves of CRC_RUN it takes. -/
theorem crcRunStepAbsorbsAByte : Obligations.CrcRunStepAbsorbsAByte := by
  intro s at_phase
  have needs : needsInput s.phase = true := by rw [at_phase]; rfl
  refine ⟨fun empty => ?wait, fun b rest input => ⟨fun more => ?more, fun one => ?last⟩⟩
  case wait => exact engineStep_waits (engineEnabled_of_inq_nil needs empty)
  case more => exact engineStep_eq (.crcMore b rest at_phase input more)
  case last => exact engineStep_eq (.crcLast b rest at_phase input one.le)

end Sys2Proof.Machine
end

section
/-! PROOFS. The issue of FRAME in an idle block: TAGLEN decides between the start and InvalidTag (42_framer.md R166,
R167). -/

namespace Sys2Proof.Machine

/-- FRAME is issued with its own check and start action (40_commands.md R111, 42_framer.md R165). -/
theorem exec_frame (taglen : Nat) (s : State) :
    exec (.frame taglen) s = issueCommand s (checkFrame taglen) fun _ => startFrame := rfl

@[simp] theorem checkFrame_four : checkFrame 4 = .ok () := rfl

theorem checkFrame_of_ne {taglen : Nat} (h : taglen ≠ 4) : checkFrame taglen = .error .invalidTag := if_neg h

/-- Settles O12: the check passes, and Accept and Start_FRAME make exactly the stated state. -/
theorem frameStartsWithASnapshot : Obligations.FrameStartsWithASnapshot := by
  intro s idle
  rw [exec_frame, checkFrame_four]
  exact issueCommand_ok idle () _

/-- Settles O13: the check fails, and the idle block rejects by the check's error. -/
theorem frameRejectsOtherTagLengths : Obligations.FrameRejectsOtherTagLengths := by
  intro s taglen idle other
  rw [exec_frame, checkFrame_of_ne other]
  exact issueCommand_error idle .invalidTag _

end Sys2Proof.Machine
end

section
/-! PROOFS. The engine's turn in the phases FR_LEN, FR_TAG and FR_PAY: a wait, or the step that emits a byte
(42_framer.md R168 to R170). -/

namespace Sys2Proof.Machine

/-- A phase that emits an output byte has no step where OUTQ is full (40_commands.md R118). -/
theorem engineEnabled_of_outq_full {s : State} (needs : needsOutput s.phase = true)
    (full : s.params.outDepth ≤ s.outq.length) : engineEnabled s = false := by
  simp [engineEnabled, needs, outputFree, full]

/-! ## The bytes of a 4-byte field -/

theorem be32Byte_zero (v : Word) : be32Byte v 0 = v.extractLsb' 24 8 := rfl

theorem be32Byte_one (v : Word) : be32Byte v 1 = v.extractLsb' 16 8 := rfl

theorem be32Byte_two (v : Word) : be32Byte v 2 = v.extractLsb' 8 8 := rfl

theorem be32Byte_three (v : Word) : be32Byte v 3 = v.extractLsb' 0 8 := rfl

/-! ## FR_LEN -/

/-- The move before the last byte of the length, with the index it emits and the next one named. -/
theorem engineStep_frLen_more {s : State} {i j : Fin 4} (at_phase : s.phase = .frLen)
    (room : s.outq.length < s.params.outDepth) (at_idx : s.idx = i) (more : i ≠ 3 := by decide)
    (next : i + 1 = j := by decide) :
    engineStep s = { s with outq := s.outq ++ [be32Byte s.sLen i], idx := j } := by
  subst at_idx next
  exact engineStep_eq (.lenMore at_phase room more)

/-- Settles O21: without room the engine waits; with it, IDX names the byte that the move of FR_LEN emits. -/
theorem frLenStepEmitsALengthByte : Obligations.FrLenStepEmitsALengthByte := by
  intro s at_phase
  have needs : needsOutput s.phase = true := by rw [at_phase]; rfl
  refine ⟨fun full => ?wait, fun room => ?emit⟩
  case wait => exact engineStep_waits (engineEnabled_of_outq_full needs full)
  case emit =>
    rw [← be32Byte_zero, ← be32Byte_one, ← be32Byte_two, ← be32Byte_three]
    exact ⟨engineStep_frLen_more at_phase room, engineStep_frLen_more at_phase room,
      engineStep_frLen_more at_phase room, fun last => engineStep_eq (.lenLast at_phase room last)⟩

/-! ## FR_TAG -/

/-- The move before the last byte of the tag, with the index it emits, the byte and the next index named. -/
theorem engineStep_frTag_more {s : State} {i j : Fin 4} {b : Byte} (at_phase : s.phase = .frTag)
    (room : s.outq.length < s.params.outDepth) (at_idx : s.idx = i) (emitted : b = be32Byte s.sTag i)
    (more : i ≠ 3 := by decide) (next : i + 1 = j := by decide) :
    engineStep s = { s with outq := s.outq ++ [b], crcState := crcByte s.crcState b, idx := j } := by
  subst at_idx emitted next
  exact engineStep_eq (.tagMore at_phase room more)

/-- Settles O22: without room the engine waits; with it, IDX names the byte that the move of FR_TAG emits and absorbs,
and after the last one S_LEN decides the phase. -/
theorem frTagStepEmitsATagByte : Obligations.FrTagStepEmitsATagByte := by
  intro s at_phase
  have needs : needsOutput s.phase = true := by rw [at_phase]; rfl
  refine ⟨fun full => ?wait, fun b room => ?emit⟩
  case wait => exact engineStep_waits (engineEnabled_of_outq_full needs full)
  case emit =>
    rw [← be32Byte_zero, ← be32Byte_one, ← be32Byte_two, ← be32Byte_three]
    refine ⟨engineStep_frTag_more at_phase room, engineStep_frTag_more at_phase room,
      engineStep_frTag_more at_phase room, fun last emitted empty => ?lastEmpty, fun last emitted payload => ?last⟩
    case lastEmpty =>
      subst emitted
      have none_left : s.sLen.toNat = 0 := by simp [empty]
      exact engineStep_eq (.tagLastEmpty at_phase room last none_left)
    case last =>
      subst emitted
      have some_left : s.sLen.toNat ≠ 0 := fun zero => payload (BitVec.eq_of_toNat_eq zero)
      exact engineStep_eq (.tagLast at_phase room last some_left)

/-! ## FR_PAY -/

/-- Settles O23: without a byte or without room the engine waits; with both, CNT decides which of the two moves of
FR_PAY it takes. -/
theorem frPayStepPassesAByteThrough : Obligations.FrPayStepPassesAByteThrough := by
  intro s at_phase
  have takes : needsInput s.phase = true := by rw [at_phase]; rfl
  have emits : needsOutput s.phase = true := by rw [at_phase]; rfl
  refine ⟨?wait, fun b rest input room => ⟨fun more => ?more, fun one => ?last⟩⟩
  case wait =>
    rintro (empty | full)
    · exact engineStep_waits (engineEnabled_of_inq_nil takes empty)
    · exact engineStep_waits (engineEnabled_of_outq_full emits full)
  case more => exact engineStep_eq (.payMore b rest at_phase input room more)
  case last => exact engineStep_eq (.payLast b rest at_phase input room one.le)

end Sys2Proof.Machine
end

section
/-! PROOFS. The issue of PACK in an idle block: the outcome of Check_PACK by the first check that fails, and what the
issuing step makes of it (43_packer.md R182, R183, R186). -/

namespace Sys2Proof.Machine

/-! ## The operands of the check -/

theorem channelsOf_rgb {ct : Byte} (h : ct = 2) : channelsOf ct = some .rgb := by simp [channelsOf, h]

theorem channelsOf_rgba {ct : Byte} (h : ct = 6) : channelsOf ct = some .rgba := by simp [channelsOf, h]

theorem channelsOf_none {ct : Byte} (not_rgb : ct ≠ 2) (not_rgba : ct ≠ 6) : channelsOf ct = none := by
  rw [channelsOf, if_neg not_rgb, if_neg not_rgba]

theorem channelsOf_some {ct : Byte} (h : ct = 2 ∨ ct = 6) : ∃ c, channelsOf ct = some c :=
  h.elim (fun rgb => ⟨_, channelsOf_rgb rgb⟩) (fun rgba => ⟨_, channelsOf_rgba rgba⟩)

theorem dimensionInRange_iff {v : Word} : dimensionInRange v = true ↔ 1 ≤ v.toNat ∧ v.toNat ≤ 0x7FFFFFFF := by
  simp [dimensionInRange]

theorem dimensionInRange_false_iff {v : Word} :
    dimensionInRange v = false ↔ v.toNat = 0 ∨ 0x7FFFFFFF < v.toNat := by
  rw [← Bool.not_eq_true, dimensionInRange_iff]
  omega

/-! ## The outcomes of Check_PACK, in its order (43_packer.md R183) -/

theorem checkPack_unsupportedColorMode {s : State} (color : channelsOf s.colorType = none) :
    checkPack s = .error .unsupportedColorMode := by
  simp [checkPack, color]

theorem checkPack_dimensionRange {s : State} {c : Channels} (color : channelsOf s.colorType = some c)
    (range : dimensionInRange s.width = false ∨ dimensionInRange s.height = false) :
    checkPack s = .error .dimensionRange := by
  simp only [checkPack, color, Bool.and_eq_false_iff.mpr range, if_true]

theorem checkPack_dimensionMismatch {s : State} {c : Channels} (color : channelsOf s.colorType = some c)
    (width : dimensionInRange s.width = true) (height : dimensionInRange s.height = true)
    (length : (bufLen s).toNat ≠ sampleCount s c) : checkPack s = .error .dimensionMismatch := by
  simp [checkPack, color, width, height, length]

/-- The converse of `checkPack_ok`. -/
theorem checkPack_eq_ok {s : State} {c : Channels} (color : channelsOf s.colorType = some c)
    (width : dimensionInRange s.width = true) (height : dimensionInRange s.height = true)
    (length : (bufLen s).toNat = sampleCount s c) : checkPack s = .ok c := by
  simp [checkPack, color, width, height, length]

/-! ## The issuing step -/

/-- PACK is issued with its own check and start action (40_commands.md R111, 43_packer.md R185). -/
theorem exec_pack (s : State) : exec .pack s = issueCommand s (checkPack s) startPack := rfl

theorem exec_pack_of_check_error {s : State} {k : ErrorKind} (idle : s.phase = .idle)
    (fails : checkPack s = .error k) : exec .pack s = .next (reject k s) := by
  rw [exec_pack, fails]
  exact issueCommand_error idle k _

theorem exec_pack_of_check_ok {s : State} {c : Channels} (idle : s.phase = .idle) (passes : checkPack s = .ok c) :
    exec .pack s = .next (startPack c (accept s)) := by
  rw [exec_pack, passes]
  exact issueCommand_ok idle c _

/-- Settles O14: with the three checks passed, Accept and Start_PACK make exactly the stated state, for either colour
type. -/
theorem packStartsWithASnapshot : Obligations.PackStartsWithASnapshot := by
  intro s idle w_pos w_max h_pos h_max
  have width : dimensionInRange s.width = true := dimensionInRange_iff.mpr ⟨w_pos, w_max⟩
  have height : dimensionInRange s.height = true := dimensionInRange_iff.mpr ⟨h_pos, h_max⟩
  rw [← bufLen_toNat]
  exact ⟨fun rgb length => exec_pack_of_check_ok idle (checkPack_eq_ok (channelsOf_rgb rgb) width height length),
    fun rgba length => exec_pack_of_check_ok idle (checkPack_eq_ok (channelsOf_rgba rgba) width height length)⟩

/-- Settles O15: each clause is one error outcome of Check_PACK, and the idle block rejects by it. -/
theorem packChecksInOrder : Obligations.PackChecksInOrder := by
  intro s idle
  refine ⟨fun not_rgb not_rgba => ?color, fun supported bad => ?range,
    fun channels supported w_pos w_max h_pos h_max length => ?length⟩
  case color =>
    exact exec_pack_of_check_error idle (checkPack_unsupportedColorMode (channelsOf_none not_rgb not_rgba))
  case range =>
    obtain ⟨c, color⟩ := channelsOf_some supported
    have range : dimensionInRange s.width = false ∨ dimensionInRange s.height = false := by
      rwa [dimensionInRange_false_iff, dimensionInRange_false_iff, or_assoc]
    exact exec_pack_of_check_error idle (checkPack_dimensionRange color range)
  case length =>
    have width : dimensionInRange s.width = true := dimensionInRange_iff.mpr ⟨w_pos, w_max⟩
    have height : dimensionInRange s.height = true := dimensionInRange_iff.mpr ⟨h_pos, h_max⟩
    rw [← bufLen_toNat] at length
    obtain ⟨rgb, rfl⟩ | ⟨rgba, rfl⟩ := supported
    · exact exec_pack_of_check_error idle (checkPack_dimensionMismatch (channelsOf_rgb rgb) width height length)
    · exact exec_pack_of_check_error idle (checkPack_dimensionMismatch (channelsOf_rgba rgba) width height length)

end Sys2Proof.Machine
end

section
/-! PROOFS. The engine's turn in the phases PK_SEL and PK_ROW: a wait, or the step that emits the filter byte or
copies a sample (43_packer.md R187, R188). -/

namespace Sys2Proof.Machine

theorem rowSamples_rgb {s : State} (h : s.sC = .rgb) : rowSamples s = s.sW.toNat * 3 := by
  simp [rowSamples, h, Channels.count]

theorem rowSamples_rgba {s : State} (h : s.sC = .rgba) : rowSamples s = s.sW.toNat * 4 := by
  simp [rowSamples, h, Channels.count]

/-- Settles O25: without room the engine waits; with it, the one move of PK_SEL sets CNT to the samples of a row. -/
theorem pkSelStepEmitsTheFilterByte : Obligations.PkSelStepEmitsTheFilterByte := by
  intro s at_phase
  have needs : needsOutput s.phase = true := by rw [at_phase]; rfl
  refine ⟨fun full => ?wait, fun room => ⟨fun rgb => ?rgb, fun rgba => ?rgba⟩⟩
  case wait => exact engineStep_waits (engineEnabled_of_outq_full needs full)
  case rgb =>
    rw [← rowSamples_rgb rgb]
    exact engineStep_eq (.select at_phase room)
  case rgba =>
    rw [← rowSamples_rgba rgba]
    exact engineStep_eq (.select at_phase room)

/-- Settles O26: without a byte or without room the engine waits; with both, CNT and ROWS decide which of the three
moves of PK_ROW it takes. -/
theorem pkRowStepCopiesASample : Obligations.PkRowStepCopiesASample := by
  intro s at_phase
  have takes : needsInput s.phase = true := by rw [at_phase]; rfl
  have emits : needsOutput s.phase = true := by rw [at_phase]; rfl
  refine ⟨?wait, fun b rest input room =>
    ⟨fun more => ?more, fun one rows_left => ?rowEnd, fun one last_row => ?rowLast⟩⟩
  case wait =>
    rintro (empty | full)
    · exact engineStep_waits (engineEnabled_of_inq_nil takes empty)
    · exact engineStep_waits (engineEnabled_of_outq_full emits full)
  case more => exact engineStep_eq (.rowMore b rest at_phase input room more)
  case rowEnd => exact engineStep_eq (.rowEnd b rest at_phase input room one.le rows_left)
  case rowLast => exact engineStep_eq (.rowLast b rest at_phase input room one.le last_row.le)

end Sys2Proof.Machine
end

section
/-! PROOFS. The soft reset: a write of CTRL with bit 31 set does what the reset input does (70_reset_and_hazards.md
R230, R232, R234). -/

namespace Sys2Proof.Machine

/-- A 32-bit write at the offset of a register reaches the block and writes that register (20_memory.md R61, R62). -/
theorem hostAccess_write_regOffset (r : Reg) (v : Word) (s : State) :
    hostAccess (.write (regOffset r) .w32 v) s = writeReg r v s := by
  have names : accessReg (regOffset r) .w32 = some r := accessReg_regOffset r
  obtain ⟨-, -, reaches⟩ := accessReg_some names
  simp [hostAccess, names, reaches]

theorem writeCtrl_of_srst {v : Word} (srst : v.getLsbD 31 = true) (s : State) : writeCtrl v s = resetBlock s :=
  if_pos srst

/-- CTRL reads as 0 where both interrupt enables are off (10_state.md R31). -/
theorem ctrlWord_eq_zero {s : State} (errOff : s.ieErr = false) (doneOff : s.ieDone = false) : ctrlWord s = 0 := by
  rw [ctrlWord, errOff, doneOff]
  rfl

/-- CTRL.SRST, written over the bus, resets the block whatever it was doing (70_reset_and_hazards.md R232). -/
theorem hostAccess_srst {v : Word} (srst : v.getLsbD 31 = true) (s : State) :
    hostAccess (.write 0x00 .w32 v) s = .next (resetBlock s) :=
  calc hostAccess (.write 0x00 .w32 v) s
    _ = writeReg .ctrl v s := hostAccess_write_regOffset .ctrl v s
    _ = .next (writeCtrl v s) := rfl
    _ = .next (resetBlock s) := congrArg _ (writeCtrl_of_srst srst s)

/-- Settles O53: both answer `resetBlock s`, whose fields are the values of R234. -/
theorem resetSetsTheResetValues : Obligations.ResetSetsTheResetValues := by
  intro s v srst
  have ctrl : regValue .ctrl (resetBlock s) = 0 := ctrlWord_eq_zero (resetBlock_ieErr s) (resetBlock_ieDone s)
  refine ⟨resetBlock s, hostAccess_srst srst s, rfl, ?values⟩
  case values => simp [ctrl, SameOutside]

end Sys2Proof.Machine
end

section
/-! PROOFS. What the engine's steps conserve: the bytes a running command has emitted with those it has still to emit,
the checksum it ends with, and the input it leaves (40_commands.md R117; 41_checksum.md R148; 42_framer.md R168 to R171;
43_packer.md R187, R188). -/

namespace Sys2Proof.Machine

/-! ## The pure functions, one byte or one row at a time -/

@[simp] theorem crcRun_nil (c : Word) : crcRun c [] = c := rfl

@[simp] theorem crcRun_cons (c : Word) (b : Byte) (bytes : List Byte) :
    crcRun c (b :: bytes) = crcRun (crcByte c b) bytes := rfl

theorem crcRun_append (c : Word) (first second : List Byte) :
    crcRun c (first ++ second) = crcRun (crcRun c first) second := List.foldl_append

@[simp] theorem length_be32 (v : Word) : (be32 v).length = 4 := rfl

theorem be32_drop_more (v : Word) {i : Fin 4} (more : i ≠ 3) :
    (be32 v).drop i = be32Byte v i :: (be32 v).drop (i + 1 : Fin 4) := by
  match i, more with
  | 0, _ => rfl
  | 1, _ => rfl
  | 2, _ => rfl
  | 3, more => exact absurd rfl more

theorem be32_drop_three (v : Word) : (be32 v).drop 3 = [be32Byte v 3] := rfl

@[simp] theorem packBytes_zero (p : List Byte) (w c : Nat) : packBytes p w 0 c = [] := rfl

/-- The first row is the filter byte and the first W · C bytes; the other rows pack what follows (43_packer.md R180). -/
theorem packBytes_succ (p : List Byte) (w h c : Nat) :
    packBytes p w (h + 1) c = filterByte :: p.take (w * c) ++ packBytes (p.drop (w * c)) w h c := by
  have shifted : ∀ y : Nat, w * c + y * w * c = (y + 1) * w * c := fun y => by ring
  simp [packBytes, List.range_succ_eq_map, List.flatMap_map, shifted]

/-! ## The engine's steps -/

/-- In FR_CRC every byte of the checksum has been absorbed. -/
theorem finalCrc_of_frCrc {s : State} (at_phase : s.phase = .frCrc) (input : List Byte) :
    finalCrc s input = s.crcState := by
  simp [finalCrc, remainingCrcBytes, at_phase]

/-- A move keeps the checksum the command ends with: the byte it absorbs is the first of those still to absorb. -/
theorem EngineMoves.finalCrc_eq {s t : State} (move : EngineMoves s t) (ok : PhaseOk s) (later : List Byte) :
    finalCrc t (t.inq ++ later) = finalCrc s (s.inq ++ later) := by
  obtain ⟨crcOk, payOk, -, -⟩ := ok
  cases move with
  | crcMore b rest at_phase input more =>
    obtain ⟨n, count⟩ := Nat.exists_eq_add_of_le' (Nat.one_le_of_lt more)
    simp [finalCrc, remainingCrcBytes, at_phase, input, count]
  | crcLast b rest at_phase input last =>
    have one : s.cnt = 1 := by have := crcOk at_phase; omega
    simp [finalCrc, remainingCrcBytes, at_phase, input, one]
  | payMore b rest at_phase input room more =>
    obtain ⟨n, count⟩ := Nat.exists_eq_add_of_le' (Nat.one_le_of_lt more)
    simp [finalCrc, remainingCrcBytes, at_phase, input, count]
  | payLast b rest at_phase input room last =>
    have one : s.cnt = 1 := by have := payOk at_phase; omega
    simp [finalCrc, remainingCrcBytes, at_phase, input, one]
  | tagMore at_phase room more => simp [finalCrc, remainingCrcBytes, at_phase, be32_drop_more s.sTag more]
  | tagLastEmpty at_phase room last empty =>
    simp [finalCrc, remainingCrcBytes, at_phase, last, be32_drop_three, empty]
  | tagLast at_phase room last payload => simp [finalCrc, remainingCrcBytes, at_phase, last, be32_drop_three]
  | lenMore at_phase | lenLast at_phase | sumMore at_phase | sumLast at_phase | select at_phase
  | rowMore _ _ at_phase | rowEnd _ _ at_phase | rowLast _ _ at_phase =>
    simp [finalCrc, remainingCrcBytes, at_phase]

/-- A move keeps the output in OUTQ and to come: the byte it emits is the first of those still to emit. -/
theorem EngineMoves.output_eq {s t : State} (move : EngineMoves s t) (ok : PhaseOk s) (later : List Byte) :
    t.outq ++ remainingOutput t (t.inq ++ later) = s.outq ++ remainingOutput s (s.inq ++ later) := by
  have crc := move.finalCrc_eq ok later
  obtain ⟨-, payOk, selOk, rowOk⟩ := ok
  cases move with
  | crcMore b rest at_phase | crcLast b rest at_phase => simp [remainingOutput, at_phase]
  | lenMore at_phase room more => simp [remainingOutput, at_phase, be32_drop_more s.sLen more, ← crc]
  | lenLast at_phase room last => simp [remainingOutput, at_phase, last, be32_drop_three, ← crc]
  | tagMore at_phase room more => simp [remainingOutput, at_phase, be32_drop_more s.sTag more, ← crc]
  | tagLastEmpty at_phase room last empty =>
    simp [remainingOutput, at_phase, last, empty, be32_drop_three, ← crc, finalCrc_of_frCrc]
  | tagLast at_phase room last payload => simp [remainingOutput, at_phase, last, be32_drop_three, ← crc]
  | payMore b rest at_phase input room more =>
    obtain ⟨n, count⟩ := Nat.exists_eq_add_of_le' (Nat.one_le_of_lt more)
    rw [input, List.cons_append] at crc
    simp [remainingOutput, at_phase, input, count, ← crc]
  | payLast b rest at_phase input room last =>
    have one : s.cnt = 1 := by have := payOk at_phase; omega
    rw [input, List.cons_append] at crc
    simp [remainingOutput, at_phase, input, one, ← crc, finalCrc_of_frCrc]
  | sumMore at_phase room more => simp [remainingOutput, at_phase, be32_drop_more (~~~ s.crcState) more]
  | sumLast at_phase room last => simp [remainingOutput, at_phase, last, be32_drop_three]
  | select at_phase room =>
    obtain ⟨row, -, -⟩ := selOk at_phase
    obtain ⟨h, rows⟩ := Nat.exists_eq_add_of_le' row
    simp [remainingOutput, at_phase, rows, packBytes_succ, rowSamples]
  | rowMore b rest at_phase input room more =>
    obtain ⟨n, count⟩ := Nat.exists_eq_add_of_le' (Nat.one_le_of_lt more)
    simp [remainingOutput, at_phase, input, count]
  | rowEnd b rest at_phase input room last more =>
    have one : s.cnt = 1 := by have := rowOk at_phase; omega
    simp [remainingOutput, at_phase, input, one]
  | rowLast b rest at_phase input room last lastRow =>
    obtain ⟨row, -, -, count, -⟩ := rowOk at_phase
    have one : s.cnt = 1 := by omega
    have last_row : s.rows = 1 := by omega
    simp [remainingOutput, at_phase, input, one, last_row]

/-- Settles O30: a wait changes nothing, and every move of the engine keeps both. -/
theorem engineStepKeepsTheResult : Obligations.EngineStepKeepsTheResult := by
  rintro s later ⟨-, -, -, ok⟩
  cases enabled : engineEnabled s with
  | false => rw [engineStep_waits enabled]; exact ⟨rfl, rfl⟩
  | true =>
    have move := engineStep_moves enabled
    exact ⟨move.output_eq ok later, move.finalCrc_eq ok later⟩

end Sys2Proof.Machine
end

section
/-! PROOFS. What a step can do, said once: a turn of the engine, of the reset input, or of the host, whose access reads
a register, writes one, or does not reach the block (00_scope.md R17; 20_memory.md R61, R80). -/

namespace Sys2Proof.Machine

/-! ## The access of the coming step -/

theorem comingAccess_of_host {s : State} {a : Access} {rest : List Access} (moves : comingAgent s = .host)
    (accesses : s.hostAccesses = a :: rest) : comingAccess s = some a := by
  simp [comingAccess, moves, accesses]

theorem comingAccess_of_no_access {s : State} (accesses : s.hostAccesses = []) : comingAccess s = none := by
  simp [comingAccess, accesses]

theorem comingAccess_of_not_host {s : State} (moves : comingAgent s ≠ .host) : comingAccess s = none := if_neg moves

theorem comingWrite_of_no_access {s : State} (h : comingAccess s = none) : comingWrite s = none := by
  simp [comingWrite, h]

theorem comingRead_of_no_access {s : State} (h : comingAccess s = none) : comingRead s = none := by
  simp [comingRead, h]

theorem comingWrite_of_untargeted {s : State} {a : Access} (h : comingAccess s = some a)
    (target : accessTarget a = none) : comingWrite s = none := by
  cases a with
  | read offset width => simp [comingWrite, h]
  | write offset width v =>
    rw [accessTarget] at target
    simp [comingWrite, h, target]

theorem comingRead_of_untargeted {s : State} {a : Access} (h : comingAccess s = some a)
    (target : accessTarget a = none) : comingRead s = none := by
  cases a with
  | read offset width =>
    rw [accessTarget] at target
    simp [comingRead, h, target]
  | write offset width v => simp [comingRead, h]

theorem comingWrite_of_read {s : State} {r : Reg} (h : comingRead s = some r) : comingWrite s = none := by
  unfold comingRead at h
  split at h
  next access => simp [comingWrite, access]
  next => cases h

theorem comingRead_of_write {s : State} {r : Reg} {v : Word} (h : comingWrite s = some (r, v)) :
    comingRead s = none := by
  cases reads : comingRead s with
  | none => rfl
  | some r' => simp [comingWrite_of_read reads] at h

/-! ## The step -/

/-- Everything a step can do. The schedule and the accesses to come are whatever the turn leaves of them. -/
inductive StepMoves (s : State) : State → Prop where
  | engine (agents : List Agent) (moves : comingAgent s = .engine) :
      StepMoves s (engineStep { s with sched := agents })
  | resetInput (agents : List Agent) (moves : comingAgent s = .resetInput) :
      StepMoves s (resetBlock { s with sched := agents })
  | unseen (agents : List Agent) (accesses : List Access) (reads_none : comingRead s = none)
      (writes_none : comingWrite s = none) :
      StepMoves s { s with sched := agents, hostAccesses := accesses }
  | read (agents : List Agent) (accesses : List Access) (r : Reg) (reads : comingRead s = some r) :
      StepMoves s (readReg r { s with sched := agents, hostAccesses := accesses })
  | write (agents : List Agent) (accesses : List Access) (r : Reg) (v : Word) (t : State)
      (writes : comingWrite s = some (r, v))
      (stored : writeReg r v { s with sched := agents, hostAccesses := accesses } = .next t) : StepMoves s t

theorem hostTurn_moves {s t : State} {agents : List Agent} (moves : comingAgent s = .host)
    (h : hostTurn { s with sched := agents } = .next t) : StepMoves s t := by
  obtain ⟨accesses, e⟩ | ⟨a, rest, accesses, e⟩ := hostTurn_cases { s with sched := agents }
  · have access : comingAccess s = none := comingAccess_of_no_access accesses
    cases e.symm.trans h
    exact .unseen agents s.hostAccesses (comingRead_of_no_access access) (comingWrite_of_no_access access)
  · have access := comingAccess_of_host moves accesses
    obtain ⟨target, e'⟩ | ⟨-, e'⟩ | ⟨offset, width, r, rfl, names, e'⟩ | ⟨offset, width, v, r, rfl, names, e'⟩ :=
      hostAccess_cases a { s with sched := agents, hostAccesses := rest }
    · cases (e.trans e').symm.trans h
      exact .unseen agents rest (comingRead_of_untargeted access target) (comingWrite_of_untargeted access target)
    · cases (e.trans e').symm.trans h
    · cases (e.trans e').symm.trans h
      exact .read agents rest r (by simp [comingRead, access, names])
    · exact .write agents rest r v t (by simp [comingWrite, access, names]) ((e.trans e').symm.trans h)

theorem step_moves {s t : State} (h : step s = .next t) : StepMoves s t := by
  obtain ⟨sched, enabled, e⟩ | ⟨sched, waits, e⟩ | ⟨agents, sched, e⟩ | ⟨agents, sched, e⟩ | ⟨agents, sched, e⟩ :=
    step_cases s
  · cases e.symm.trans h
    exact .engine s.sched (by simp [comingAgent, sched, defaultAgent, enabled])
  · exact hostTurn_moves (agents := s.sched) (by simp [comingAgent, sched, defaultAgent, waits]) (e.symm.trans h)
  · exact hostTurn_moves (by simp [comingAgent, sched]) (e.symm.trans h)
  · cases e.symm.trans h
    exact .engine agents (by simp [comingAgent, sched])
  · cases e.symm.trans h
    exact .resetInput agents (by simp [comingAgent, sched])

end Sys2Proof.Machine
end

section
/-! PROOFS. The invariant: reset meets it, and every step keeps it (10_state.md R21; 43_packer.md R191; 60_exceptions.md
R200). -/

namespace Sys2Proof.Machine

/-! ## What the invariant asks in each phase -/

theorem phaseOk_of_idle {s : State} (h : s.phase = .idle) : PhaseOk s := by simp [PhaseOk, h]

theorem phaseOk_of_frLen {s : State} (h : s.phase = .frLen) : PhaseOk s := by simp [PhaseOk, h]

theorem phaseOk_of_frTag {s : State} (h : s.phase = .frTag) : PhaseOk s := by simp [PhaseOk, h]

theorem phaseOk_of_frCrc {s : State} (h : s.phase = .frCrc) : PhaseOk s := by simp [PhaseOk, h]

theorem phaseOk_crcRun {s : State} (h : s.phase = .crcRun) : PhaseOk s ↔ 1 ≤ s.cnt ∧ s.cnt < 2 ^ 32 := by
  simp [PhaseOk, h]

theorem phaseOk_frPay {s : State} (h : s.phase = .frPay) : PhaseOk s ↔ 1 ≤ s.cnt ∧ s.cnt ≤ s.sLen.toNat := by
  simp [PhaseOk, h]

theorem phaseOk_pkSel {s : State} (h : s.phase = .pkSel) :
    PhaseOk s ↔ 1 ≤ s.rows ∧ 1 ≤ s.sW.toNat ∧ s.sW.toNat ≤ 0x7FFFFFFF := by
  simp [PhaseOk, h]

theorem phaseOk_pkRow {s : State} (h : s.phase = .pkRow) :
    PhaseOk s ↔ 1 ≤ s.rows ∧ 1 ≤ s.sW.toNat ∧ s.sW.toNat ≤ 0x7FFFFFFF ∧ 1 ≤ s.cnt ∧ s.cnt ≤ rowSamples s := by
  simp [PhaseOk, h]

theorem Channels.count_bounds (c : Channels) : 3 ≤ c.count ∧ c.count ≤ 4 := by cases c <;> decide

/-- A row of an accepted PACK has from 3 to 0x1FFFFFFFC samples (43_packer.md R191). -/
theorem row_bounds {w : Nat} (w_pos : 1 ≤ w) (w_max : w ≤ 0x7FFFFFFF) (c : Channels) :
    3 ≤ w * c.count ∧ w * c.count ≤ 0x1FFFFFFFC := by
  obtain ⟨low, high⟩ := c.count_bounds
  have least : 1 * 3 ≤ w * c.count := Nat.mul_le_mul w_pos low
  have most : w * c.count ≤ 0x7FFFFFFF * 4 := Nat.mul_le_mul w_max high
  omega

/-! ## The engine -/

theorem EngineMoves.phaseOk {s t : State} (move : EngineMoves s t) (ok : PhaseOk s) : PhaseOk t := by
  cases move with
  | crcMore b rest at_phase input more =>
    have := (phaseOk_crcRun at_phase).mp ok
    exact (phaseOk_crcRun (by exact at_phase)).mpr ⟨by dsimp only; omega, by dsimp only; omega⟩
  | crcLast | sumLast | rowLast => exact phaseOk_of_idle rfl
  | lenMore at_phase => exact phaseOk_of_frLen at_phase
  | lenLast => exact phaseOk_of_frTag rfl
  | tagMore at_phase => exact phaseOk_of_frTag at_phase
  | tagLastEmpty | payLast => exact phaseOk_of_frCrc rfl
  | tagLast at_phase room last payload => exact (phaseOk_frPay rfl).mpr ⟨Nat.one_le_iff_ne_zero.mpr payload, le_rfl⟩
  | payMore b rest at_phase input room more =>
    have := (phaseOk_frPay at_phase).mp ok
    exact (phaseOk_frPay (by exact at_phase)).mpr ⟨by dsimp only; omega, by dsimp only; omega⟩
  | sumMore at_phase => exact phaseOk_of_frCrc at_phase
  | select at_phase =>
    obtain ⟨row, w_pos, w_max⟩ := (phaseOk_pkSel at_phase).mp ok
    have samples : 1 ≤ rowSamples s := le_trans (by decide) (row_bounds w_pos w_max s.sC).1
    exact (phaseOk_pkRow rfl).mpr ⟨row, w_pos, w_max, samples, le_rfl⟩
  | rowMore b rest at_phase input room more =>
    obtain ⟨row, w_pos, w_max, -, count⟩ := (phaseOk_pkRow at_phase).mp ok
    exact (phaseOk_pkRow (by exact at_phase)).mpr
      ⟨row, w_pos, w_max, Nat.le_sub_one_of_lt more, (Nat.sub_le s.cnt 1).trans count⟩
  | rowEnd b rest at_phase input room last more =>
    obtain ⟨-, w_pos, w_max, -⟩ := (phaseOk_pkRow at_phase).mp ok
    exact (phaseOk_pkSel rfl).mpr ⟨Nat.le_sub_one_of_lt more, w_pos, w_max⟩

theorem EngineMoves.rangesOk {s t : State} (move : EngineMoves s t) (ok : PhaseOk s) (ranges : RangesOk s) :
    RangesOk t := by
  obtain ⟨inq, outq, cnt, rows⟩ := ranges
  have sLen := s.sLen.isLt
  cases move with
  | crcMore _ _ _ input | crcLast _ _ _ input =>
    simp only [input, List.length_cons] at inq
    refine ⟨?_, outq, ?_, rows⟩ <;> dsimp only <;> omega
  | lenMore | lenLast | tagMore | tagLastEmpty | tagLast | sumMore | sumLast =>
    refine ⟨inq, ?_, ?_, rows⟩ <;> simp <;> omega
  | payMore _ _ _ input | payLast _ _ _ input | rowMore _ _ _ input | rowEnd _ _ _ input | rowLast _ _ _ input =>
    simp only [input, List.length_cons] at inq
    refine ⟨?_, ?_, ?_, ?_⟩ <;> simp <;> omega
  | select at_phase =>
    obtain ⟨-, w_pos, w_max⟩ := (phaseOk_pkSel at_phase).mp ok
    have samples : rowSamples s ≤ 0x1FFFFFFFC := (row_bounds w_pos w_max s.sC).2
    refine ⟨inq, ?_, ?_, rows⟩ <;> simp <;> omega

/-- The engine writes neither the configuration nor the error record (10_state.md R33). -/
theorem EngineMoves.params_err_eq {s t : State} (move : EngineMoves s t) :
    t.params = s.params ∧ t.err = s.err ∧ t.errCode = s.errCode := by
  cases move <;> exact ⟨rfl, rfl, rfl⟩

theorem engineStep_inv {s : State} (inv : Inv s) : Inv (engineStep s) := by
  cases enabled : engineEnabled s with
  | false => rwa [engineStep_waits enabled]
  | true =>
    obtain ⟨legal, ranges, error, ok⟩ := inv
    have move := engineStep_moves enabled
    obtain ⟨params_eq, err_eq, code_eq⟩ := move.params_err_eq
    exact ⟨params_eq ▸ legal, move.rangesOk ok ranges, by rwa [ErrorOk, err_eq, code_eq], move.phaseOk ok⟩

/-! ## Issuing -/

theorem reject_inv (k : ErrorKind) {s : State} (inv : Inv s) : Inv (reject k s) := by
  obtain ⟨legal, ranges, -, ok⟩ := inv
  have error : ErrorOk (reject k s) := by cases k <;> simp [ErrorOk, errorCode]
  exact ⟨legal, ranges, error, ok⟩

/-- The start of a checksum, which completes at once where LEN is 0 (41_checksum.md R146, R147). -/
theorem startCrcRun_cases (s : State) :
    (s.len.toNat = 0 ∧ startCrcRun s = { s with cnt := 0, phase := .idle, done := true }) ∨
    (1 ≤ s.len.toNat ∧ startCrcRun s = { s with cnt := s.len.toNat, phase := .crcRun }) := by
  by_cases h : s.len.toNat = 0
  · exact .inl ⟨h, if_pos h⟩
  · exact .inr ⟨Nat.one_le_iff_ne_zero.mpr h, if_neg h⟩

theorem startCrcRun_inv {s : State} (inv : Inv s) : Inv (startCrcRun s) := by
  obtain ⟨legal, ⟨inq, outq, -, rows⟩, error, -⟩ := inv
  have len := s.len.isLt
  obtain ⟨-, e⟩ | ⟨some_left, e⟩ := startCrcRun_cases s <;> rw [e]
  · exact ⟨legal, ⟨inq, outq, by simp, rows⟩, error, phaseOk_of_idle rfl⟩
  · exact ⟨legal, ⟨inq, outq, by dsimp only; omega, rows⟩, error, (phaseOk_crcRun rfl).mpr ⟨some_left, len⟩⟩

theorem complete_inv {s : State} (inv : Inv s) : Inv (complete s) := by
  obtain ⟨legal, ranges, error, -⟩ := inv
  exact ⟨legal, ranges, error, phaseOk_of_idle rfl⟩

theorem startFrame_inv {s : State} (inv : Inv s) : Inv (startFrame s) := by
  obtain ⟨legal, ranges, error, -⟩ := inv
  exact ⟨legal, ranges, error, phaseOk_of_frLen rfl⟩

theorem startPack_inv {s : State} {c : Channels} (passes : checkPack s = .ok c) (inv : Inv s) :
    Inv (startPack c (accept s)) := by
  obtain ⟨legal, ⟨inq, outq, cnt, -⟩, error, -⟩ := inv
  obtain ⟨-, w_pos, w_max, h_pos, h_max, -⟩ := checkPack_ok passes
  exact ⟨legal, ⟨inq, outq, cnt, Nat.lt_of_le_of_lt h_max (by decide)⟩, error,
    (phaseOk_pkSel rfl).mpr ⟨h_pos, w_pos, w_max⟩⟩

theorem exec_inv {i : Instr} {s t : State} (inv : Inv s) (h : exec i s = .next t) : Inv t := by
  obtain ⟨k, rfl⟩ | ⟨idle, start⟩ := exec_cases h
  · exact reject_inv k inv
  · obtain ⟨-, rfl⟩ | ⟨-, rfl⟩ | ⟨-, rfl⟩ | ⟨-, rfl⟩ | ⟨-, rfl⟩ | ⟨c, -, passes, rfl⟩ := start
    · exact complete_inv inv
    · exact complete_inv (s := { accept s with crcState := crcInitial }) inv
    · exact startCrcRun_inv (s := accept s) inv
    · exact startCrcRun_inv (s := { accept s with crcState := crcInitial }) inv
    · exact startFrame_inv (s := accept s) inv
    · exact startPack_inv passes inv

theorem issue_inv {w : Word} {s t : State} (inv : Inv s) (h : issue w s = .next t) : Inv t := by
  obtain ⟨i, -, command⟩ | ⟨-, -, illegal⟩ := issue_cases w s
  · exact exec_inv inv (command.symm.trans h)
  · obtain ⟨k, rejected⟩ := rejectIllegal_next s
    cases h.symm.trans (illegal.trans rejected)
    exact reject_inv k inv

/-! ## Accesses of the register window -/

theorem readReg_inv (r : Reg) {s : State} (inv : Inv s) : Inv (readReg r s) := by
  obtain ⟨-, e⟩ | ⟨-, -, e⟩ | ⟨b, rest, -, head, e⟩ := readReg_cases r s <;> rw [e]
  · exact inv
  · exact inv
  · obtain ⟨legal, ⟨inq, outq, cnt, rows⟩, error, ok⟩ := inv
    rw [head, List.length_cons] at outq
    exact ⟨legal, ⟨inq, Nat.le_of_succ_le outq, cnt, rows⟩, error, ok⟩

theorem pushInput_inv (b : Byte) {s : State} (inv : Inv s) : Inv (pushInput b s) := by
  obtain ⟨room, e⟩ | ⟨-, e⟩ := pushInput_cases b s <;> rw [e]
  · obtain ⟨legal, ⟨-, outq, cnt, rows⟩, error, ok⟩ := inv
    have inq : (s.inq ++ [b]).length ≤ s.params.inDepth := by simpa using room
    exact ⟨legal, ⟨inq, outq, cnt, rows⟩, error, ok⟩
  · exact inv

/-- The write-one-to-clear bits of STATUS, all at once (10_state.md R32, R35). -/
theorem clearFlags_eq (v : Word) (s : State) :
    clearFlags v s =
      { s with
        done := s.done && !v.getLsbD 1
        err := s.err && !v.getLsbD 2
        errCode := if v.getLsbD 2 then 0 else s.errCode
        inOvf := s.inOvf && !v.getLsbD 3 } := by
  unfold clearFlags
  split_ifs <;> simp_all [acknowledge]

theorem clearFlags_inv (v : Word) {s : State} (inv : Inv s) : Inv (clearFlags v s) := by
  obtain ⟨legal, ranges, error, ok⟩ := inv
  have cleared : ErrorOk (clearFlags v s) := by
    rw [clearFlags_eq]
    cases v.getLsbD 2 with
    | true => simp [ErrorOk]
    | false => simpa [ErrorOk] using error
  rw [clearFlags_eq] at cleared ⊢
  exact ⟨legal, ranges, cleared, ok⟩

theorem inv_resetWith {p : Params} (legal : p.Legal) : Inv (State.resetWith p) :=
  ⟨legal, ⟨Nat.zero_le _, Nat.zero_le _, Nat.two_pow_pos 64, Nat.two_pow_pos 31⟩,
    by simp [ErrorOk, State.resetWith], phaseOk_of_idle rfl⟩

theorem resetBlock_inv {s : State} (inv : Inv s) : Inv (resetBlock s) := inv_resetWith inv.1

theorem writeCtrl_inv (v : Word) {s : State} (inv : Inv s) : Inv (writeCtrl v s) := by
  unfold writeCtrl
  split
  · exact resetBlock_inv inv
  · exact inv

theorem writeCrcState_inv (v : Word) {s : State} (inv : Inv s) : Inv (writeCrcState v s) := by
  unfold writeCrcState
  split <;> exact inv

theorem writeReg_inv {r : Reg} {v : Word} {s t : State} (inv : Inv s) (h : writeReg r v s = .next t) : Inv t := by
  cases r with
  | cmd => exact issue_inv inv h
  | ctrl => cases h; exact writeCtrl_inv v inv
  | status => cases h; exact clearFlags_inv v inv
  | crcState => cases h; exact writeCrcState_inv v inv
  | inData => cases h; exact pushInput_inv _ inv
  | len | tag | width | height | cfg | bufLenLo | bufLenHi | errCode | crcResult | outData | fifoStatus =>
    cases h; exact inv

/-! ## Reset and the step -/

theorem Config.params_legal : Config.params.Legal := by
  have inDepth := Config.inDepthIndex.isLt
  have outDepth := Config.outDepthIndex.isLt
  refine ⟨?_, ?_, ?_, ?_, ?_⟩ <;> simp only [Config.params] <;> omega

/-- Settles O55: a reset block meets the invariant under any legal configuration, and that of Config is legal. -/
theorem resetMeetsTheInvariant : Obligations.ResetMeetsTheInvariant := inv_resetWith Config.params_legal

/-- Settles O56, by the turn the step takes: the invariant does not speak of the schedule, the accesses to come or the
values read. -/
theorem stepKeepsTheInvariant : Obligations.StepKeepsTheInvariant := by
  intro s t inv h
  cases step_moves h with
  | engine agents => exact engineStep_inv (s := { s with sched := agents }) inv
  | resetInput agents => exact resetBlock_inv (s := { s with sched := agents }) inv
  | unseen agents accesses => exact inv
  | read agents accesses r => exact readReg_inv r (s := { s with sched := agents, hostAccesses := accesses }) inv
  | write agents accesses r v _ _ stored =>
    exact writeReg_inv (s := { s with sched := agents, hostAccesses := accesses }) inv stored

end Sys2Proof.Machine
end

section
/-! PROOFS. A running command and the host: every command word is rejected with Busy, and no access but a reset reaches
the engine (40_commands.md R111, R113, R122; 20_memory.md R84). -/

namespace Sys2Proof.Machine

/-! ## Busy -/

theorem exec_nop (s : State) : exec .nop s = issueCommand s (.ok ()) fun _ => complete := rfl

theorem exec_crcInit (s : State) :
    exec .crcInit s = issueCommand s (.ok ()) fun _ t => complete { t with crcState := crcInitial } := rfl

theorem exec_crcUpdate (s : State) : exec .crcUpdate s = issueCommand s (.ok ()) fun _ => startCrcRun := rfl

theorem exec_crcCalc (s : State) :
    exec .crcCalc s = issueCommand s (.ok ()) fun _ t => startCrcRun { t with crcState := crcInitial } := rfl

/-- The shared operation issues every command, with a check and a start action of its own (40_commands.md R111). -/
theorem exec_eq_issueCommand (i : Instr) (s : State) :
    ∃ (α : Type) (check : Except ErrorKind α) (start : α → State → State), exec i s = issueCommand s check start := by
  cases i with
  | nop => exact ⟨_, _, _, exec_nop s⟩
  | crcInit => exact ⟨_, _, _, exec_crcInit s⟩
  | crcUpdate => exact ⟨_, _, _, exec_crcUpdate s⟩
  | crcCalc => exact ⟨_, _, _, exec_crcCalc s⟩
  | frame taglen => exact ⟨_, _, _, exec_frame taglen s⟩
  | pack => exact ⟨_, _, _, exec_pack s⟩

theorem exec_busy {s : State} (running : s.phase ≠ .idle) (i : Instr) : exec i s = .next (reject .busy s) := by
  obtain ⟨_, check, start, e⟩ := exec_eq_issueCommand i s
  exact e.trans (issueCommand_busy running check start)

theorem issue_busy {s : State} (running : s.phase ≠ .idle) (w : Word) : issue w s = .next (reject .busy s) := by
  obtain ⟨i, -, command⟩ | ⟨-, -, illegal⟩ := issue_cases w s
  · exact command.trans (exec_busy running i)
  · exact illegal.trans (issueCommand_busy running _ _)

/-- Settles O16: Busy is the first check of every command, and of the words that are none. -/
theorem busyRejectsEveryCommand : Obligations.BusyRejectsEveryCommand :=
  fun _ running => ⟨exec_busy running, issue_busy running⟩

/-! ## What an access does while a command runs -/

/-- From `s` to `t` the host has pushed and popped the bytes given, and the engine stands where it stood. -/
def HostEffect (s : State) (pushed popped : List Byte) (t : State) : Prop :=
  SameEngine s t ∧ t.params = s.params ∧ (t.done = true → s.done = true) ∧
  t.inq = s.inq ++ pushed ∧ s.outq = popped ++ t.outq

theorem hostEffect_refl (s : State) : HostEffect s [] [] s :=
  ⟨⟨rfl, rfl, rfl, rfl, rfl, rfl, rfl, rfl, rfl⟩, rfl, id, (List.append_nil _).symm, rfl⟩

/-- The bytes a write appends to INQ (20_memory.md R70). -/
def pushedBy (r : Reg) (v : Word) (s : State) : List Byte :=
  if r = .inData ∧ s.inq.length < s.params.inDepth then [v.extractLsb' 0 8] else []

/-- The bytes a read takes from OUTQ (20_memory.md R71). -/
def poppedBy (r : Reg) (s : State) : List Byte := if r = .outData then s.outq.take 1 else []

theorem poppedBy_of_ne {r : Reg} (h : r ≠ .outData) (s : State) : poppedBy r s = [] := if_neg h

theorem pushedBy_cases (r : Reg) (v : Word) (s : State) :
    pushedBy r v s = [] ∨ pushedBy r v s = [v.extractLsb' 0 8] := by
  unfold pushedBy
  split
  · exact .inr rfl
  · exact .inl rfl

theorem poppedBy_cases (r : Reg) (s : State) : poppedBy r s = [] ∨ ∃ b, poppedBy r s = [b] := by
  unfold poppedBy
  split
  · cases s.outq with
    | nil => exact .inl rfl
    | cons b rest => exact .inr ⟨b, rfl⟩
  · exact .inl rfl

theorem readReg_effect (r : Reg) (s : State) : HostEffect s [] (poppedBy r s) (readReg r s) := by
  obtain ⟨other, e⟩ | ⟨rfl, empty, e⟩ | ⟨b, rest, rfl, head, e⟩ := readReg_cases r s <;> rw [e]
  · rw [poppedBy_of_ne other]
    exact hostEffect_refl s
  · have none_popped : poppedBy .outData s = [] := by simp [poppedBy, empty]
    rw [none_popped]
    exact hostEffect_refl s
  · have one_popped : poppedBy .outData s = [b] := by simp [poppedBy, head]
    obtain ⟨engine, params, done, inq, -⟩ := hostEffect_refl s
    exact ⟨engine, params, done, inq, by simp [one_popped, head]⟩

theorem pushInput_effect (v : Word) (s : State) :
    HostEffect s (pushedBy .inData v s) [] (pushInput (v.extractLsb' 0 8) s) := by
  obtain ⟨engine, params, done, inq, outq⟩ := hostEffect_refl s
  obtain ⟨room, e⟩ | ⟨full, e⟩ := pushInput_cases (v.extractLsb' 0 8) s <;> rw [e]
  · exact ⟨engine, params, done, by simp [pushedBy, room], outq⟩
  · exact ⟨engine, params, done, by simp [pushedBy, Nat.not_lt.mpr full], outq⟩

theorem clearFlags_effect (v : Word) (s : State) : HostEffect s [] [] (clearFlags v s) := by
  obtain ⟨engine, params, -, inq, outq⟩ := hostEffect_refl s
  rw [clearFlags_eq]
  exact ⟨engine, params, fun done => (Bool.and_eq_true_iff.mp done).1, inq, outq⟩

theorem writeCtrl_of_no_srst {v : Word} (no_reset : v.getLsbD 31 = false) (s : State) :
    writeCtrl v s = { s with ieDone := v.getLsbD 0, ieErr := v.getLsbD 1 } := by
  rw [writeCtrl, no_reset]
  rfl

theorem writeCrcState_of_running {s : State} (running : s.phase ≠ .idle) (v : Word) : writeCrcState v s = s :=
  if_pos ((busy_iff s).mpr running)

theorem writeReg_effect {r : Reg} {v : Word} {s t : State} (running : s.phase ≠ .idle)
    (no_reset : r = .ctrl → v.getLsbD 31 = false) (h : writeReg r v s = .next t) :
    HostEffect s (pushedBy r v s) [] t := by
  cases r with
  | inData => cases h; exact pushInput_effect v s
  | status => cases h; exact clearFlags_effect v s
  | cmd =>
    cases (issue_busy running v).symm.trans h
    exact hostEffect_refl s
  | ctrl =>
    cases h
    rw [writeCtrl_of_no_srst (no_reset rfl)]
    exact hostEffect_refl s
  | crcState =>
    cases h
    rw [writeCrcState_of_running running]
    exact hostEffect_refl s
  | len | tag | width | height | cfg | bufLenLo | bufLenHi | errCode | crcResult | outData | fifoStatus =>
    cases h; exact hostEffect_refl s

/-- The access, made while a command runs, moves at most one byte and leaves the engine where it stands. -/
theorem hostAccess_effect {s t : State} {a : Access} (running : s.phase ≠ .idle)
    (no_reset : ∀ v : Word, a = .write 0x00 .w32 v → v.getLsbD 31 = false) (h : hostAccess a s = .next t) :
    ∃ pushed popped, HostEffect s pushed popped t ∧ (pushed = [] ∨ ∃ b, pushed = [b]) ∧
      (popped = [] ∨ ∃ b, popped = [b]) := by
  obtain ⟨-, e⟩ | ⟨-, e⟩ | ⟨_, _, r, -, -, e⟩ | ⟨offset, width, v, r, rfl, names, e⟩ := hostAccess_cases a s
  · cases e.symm.trans h
    exact ⟨[], [], hostEffect_refl s, .inl rfl, .inl rfl⟩
  · cases e.symm.trans h
  · cases e.symm.trans h
    exact ⟨[], poppedBy r s, readReg_effect r s, .inl rfl, poppedBy_cases r s⟩
  · obtain ⟨rfl, rfl, -⟩ := accessReg_some names
    have no_srst : r = .ctrl → v.getLsbD 31 = false := fun ctrl => no_reset v (by rw [ctrl]; rfl)
    exact ⟨pushedBy r v s, [], writeReg_effect running no_srst (e.symm.trans h),
      (pushedBy_cases r v s).imp_right fun one => ⟨_, one⟩, .inl rfl⟩

/-- Settles O38: the access has a host's effect, with at most one byte pushed and one popped. -/
theorem hostCannotDisturbARunningCommand : Obligations.HostCannotDisturbARunningCommand := by
  intro s t a running h no_reset
  obtain ⟨pushed, popped, ⟨engine, params, done, inq, outq⟩, one_pushed, one_popped⟩ :=
    hostAccess_effect ((busy_iff s).mp running) no_reset h
  refine ⟨engine, params, ?done, ?inq, ?outq⟩
  case done =>
    cases ends : t.done with
    | true => simp [done ends]
    | false => simp
  case inq =>
    obtain rfl | ⟨b, rfl⟩ := one_pushed
    · exact .inl (inq.trans (List.append_nil _))
    · exact .inr ⟨b, inq⟩
  case outq =>
    obtain rfl | ⟨b, rfl⟩ := one_popped
    · exact .inl outq.symm
    · exact .inr ⟨b, outq⟩

end Sys2Proof.Machine
end

section
/-! PROOFS. What a run of a command without a reset conserves, under every schedule: its output, its checksum and its
input (20_memory.md R80, R84; 40_commands.md R117, R118). -/

namespace Sys2Proof.Machine

/-- From `s` to `t`, with the bytes given pushed and popped between them, the command has kept its result: the
checksum and the output for whatever input comes later, and the input it takes in all. -/
structure Conserves (s : State) (pushed popped : List Byte) (t : State) : Prop where
  crc (later : List Byte) : finalCrc t (t.inq ++ later) = finalCrc s (s.inq ++ (pushed ++ later))
  output (later : List Byte) :
    popped ++ (t.outq ++ remainingOutput t (t.inq ++ later)) =
      s.outq ++ remainingOutput s (s.inq ++ (pushed ++ later))
  input : ∃ taken, s.inq ++ pushed = taken ++ t.inq ∧ remainingInput s = taken.length + remainingInput t

theorem Conserves.refl (s : State) : Conserves s [] [] s :=
  ⟨fun _ => rfl, fun _ => rfl, [], by simp, by simp⟩

theorem Conserves.trans {s t u : State} {pushed pushed' popped popped' : List Byte}
    (first : Conserves s pushed popped t) (second : Conserves t pushed' popped' u) :
    Conserves s (pushed ++ pushed') (popped ++ popped') u where
  crc later := by rw [second.crc, first.crc, List.append_assoc]
  output later := by rw [List.append_assoc, second.output, first.output, List.append_assoc]
  input := by
    obtain ⟨taken, split, count⟩ := first.input
    obtain ⟨taken', split', count'⟩ := second.input
    refine ⟨taken ++ taken', ?_, ?_⟩
    · rw [← List.append_assoc, split, List.append_assoc, split', List.append_assoc]
    · rw [count, count', List.length_append, Nat.add_assoc]

/-! ## The host -/

theorem remainingOutput_congr {s t : State} (same : SameEngine s t) : remainingOutput t = remainingOutput s := by
  obtain ⟨phase, cnt, idx, rows, sLen, sTag, sW, sC, crc⟩ := same
  funext input
  simp only [remainingOutput, finalCrc, remainingCrcBytes, phase, cnt, idx, rows, sLen, sTag, sW, sC, crc]

theorem finalCrc_congr {s t : State} (same : SameEngine s t) : finalCrc t = finalCrc s := by
  obtain ⟨phase, cnt, idx, -, sLen, sTag, -, -, crc⟩ := same
  funext input
  simp only [finalCrc, remainingCrcBytes, phase, cnt, idx, sLen, sTag, crc]

theorem remainingInput_congr {s t : State} (same : SameEngine s t) : remainingInput t = remainingInput s := by
  obtain ⟨phase, cnt, -, rows, sLen, -, sW, sC, -⟩ := same
  simp only [remainingInput, rowSamples, phase, cnt, rows, sLen, sW, sC]

/-- The host adds its bytes behind the input and takes its bytes from the front of the output. -/
theorem HostEffect.conserves {s t : State} {pushed popped : List Byte} (h : HostEffect s pushed popped t) :
    Conserves s pushed popped t := by
  obtain ⟨same, -, -, inq, outq⟩ := h
  refine ⟨fun later => ?_, fun later => ?_, [], ?_, ?_⟩
  · rw [finalCrc_congr same, inq, List.append_assoc]
  · rw [remainingOutput_congr same, inq, outq, List.append_assoc, List.append_assoc]
  · rw [inq, List.nil_append]
  · rw [remainingInput_congr same, List.length_nil, Nat.zero_add]

/-! ## The engine -/

/-- A move that takes an input byte has one byte less to take, and any other move as many as before. -/
theorem EngineMoves.input_eq {s t : State} (move : EngineMoves s t) (ok : PhaseOk s) :
    ∃ taken, s.inq = taken ++ t.inq ∧ remainingInput s = taken.length + remainingInput t := by
  obtain ⟨crcOk, payOk, selOk, rowOk⟩ := ok
  cases move with
  | crcMore b _ at_phase input | payMore b _ at_phase input =>
    exact ⟨[b], input, by simp only [remainingInput, at_phase, List.length_singleton]; omega⟩
  | crcLast b _ at_phase input =>
    have := crcOk at_phase
    exact ⟨[b], input, by simp only [remainingInput, at_phase, List.length_singleton]; omega⟩
  | payLast b _ at_phase input =>
    have := payOk at_phase
    exact ⟨[b], input, by simp only [remainingInput, at_phase, List.length_singleton]; omega⟩
  | lenMore at_phase | lenLast at_phase | tagMore at_phase | tagLast at_phase | sumMore at_phase | sumLast at_phase =>
    exact ⟨[], rfl, by simp [remainingInput, at_phase]⟩
  | tagLastEmpty at_phase room last empty => exact ⟨[], rfl, by simp [remainingInput, at_phase, empty]⟩
  | select at_phase =>
    obtain ⟨row, -, -⟩ := selOk at_phase
    obtain ⟨h, rows⟩ := Nat.exists_eq_add_of_le' row
    exact ⟨[], rfl, by simp [remainingInput, at_phase, rows, rowSamples]; ring⟩
  | rowMore b _ at_phase input =>
    exact ⟨[b], input, by simp only [remainingInput, at_phase, rowSamples, List.length_singleton]; omega⟩
  | rowEnd b _ at_phase input =>
    have := rowOk at_phase
    exact ⟨[b], input, by simp only [remainingInput, at_phase, rowSamples, List.length_singleton]; omega⟩
  | rowLast b _ at_phase input room last lastRow =>
    obtain ⟨row, -, -, count, -⟩ := rowOk at_phase
    have last_row : s.rows = 1 := by omega
    exact ⟨[b], input, by simp only [remainingInput, at_phase, last_row, List.length_singleton]; omega⟩

theorem engineStep_conserves {s : State} (ok : PhaseOk s) : Conserves s [] [] (engineStep s) := by
  cases enabled : engineEnabled s with
  | false =>
    rw [engineStep_waits enabled]
    exact .refl s
  | true =>
    have move := engineStep_moves enabled
    exact ⟨move.finalCrc_eq ok, move.output_eq ok, by simpa using move.input_eq ok⟩

/-! ## Runs -/

theorem pushedNext_of_no_write {s : State} (h : comingWrite s = none) : pushedNext s = [] := by simp [pushedNext, h]

theorem poppedNext_of_no_read {s : State} (h : comingRead s = none) : poppedNext s = [] := by simp [poppedNext, h]

theorem pushedNext_of_write {s : State} {r : Reg} {v : Word} (h : comingWrite s = some (r, v)) :
    pushedNext s = pushedBy r v s := by
  cases r <;> simp [pushedNext, pushedBy, h]

theorem poppedNext_of_read {s : State} {r : Reg} (h : comingRead s = some r) : poppedNext s = poppedBy r s := by
  cases r <;> simp [poppedNext, poppedBy, h]

theorem noSrst_of_no_reset {s : State} {r : Reg} {v : Word} (no_reset : resetsNext s = false)
    (h : comingWrite s = some (r, v)) : r = .ctrl → v.getLsbD 31 = false := by
  rintro rfl
  simp only [resetsNext, h, Bool.or_eq_false_iff] at no_reset
  exact no_reset.2

theorem step_conserves {s t : State} (ok : PhaseOk s) (running : s.phase ≠ .idle) (no_reset : resetsNext s = false)
    (h : step s = .next t) : Conserves s (pushedNext s) (poppedNext s) t := by
  cases step_moves h with
  | engine agents moves =>
    have access := comingAccess_of_not_host (s := s) (by rw [moves]; decide)
    rw [pushedNext_of_no_write (comingWrite_of_no_access access),
      poppedNext_of_no_read (comingRead_of_no_access access)]
    obtain ⟨crc, output, input⟩ := engineStep_conserves (s := { s with sched := agents }) ok
    exact ⟨crc, output, input⟩
  | resetInput agents moves => simp [resetsNext_of_resetInput moves] at no_reset
  | unseen agents accesses reads_none writes_none =>
    rw [pushedNext_of_no_write writes_none, poppedNext_of_no_read reads_none]
    exact (show HostEffect s [] [] { s with sched := agents, hostAccesses := accesses } from
      hostEffect_refl s).conserves
  | read agents accesses r reads =>
    rw [pushedNext_of_no_write (comingWrite_of_read reads), poppedNext_of_read reads]
    have effect := readReg_effect r { s with sched := agents, hostAccesses := accesses }
    exact (show HostEffect s [] (poppedBy r s) _ from effect).conserves
  | write agents accesses r v _ writes stored =>
    rw [pushedNext_of_write writes, poppedNext_of_no_read (comingRead_of_write writes)]
    have effect := writeReg_effect (s := { s with sched := agents, hostAccesses := accesses }) running
      (noSrst_of_no_reset no_reset writes) stored
    exact (show HostEffect s (pushedBy r v s) [] t from effect).conserves

theorem WhileBusy.conserves {s t : State} {pushed popped : List Byte} (run : WhileBusy s pushed popped t)
    (inv : Inv s) : Conserves s pushed popped t := by
  induction run with
  | refl s => exact .refl s
  | step busy_s no_reset moves rest ih =>
    have ⟨_, _, _, ok⟩ := inv
    exact (step_conserves ok ((busy_iff _).mp busy_s) no_reset moves).trans (ih (stepKeepsTheInvariant _ _ inv moves))

/-- A run that ends idle ends with DONE set: its last step completed the command (40_commands.md R116, R122). -/
theorem WhileBusy.done_of_idle {s t : State} {pushed popped : List Byte} (run : WhileBusy s pushed popped t)
    (inv : Inv s) (at_start : s.phase = .idle → s.done = true) (ended : t.phase = .idle) : t.done = true := by
  induction run with
  | refl s => exact at_start ended
  | step busy_s no_reset moves rest ih =>
    refine ih (stepKeepsTheInvariant _ _ inv moves) (fun idle => ?_) ended
    obtain ⟨-, done⟩ | reset := commandsEndByCompletionOrReset _ _ inv busy_s moves idle
    · exact done
    · simp [no_reset] at reset

/-- A run of a command, under any schedule, ends with exactly the result that stood out when it began. -/
theorem WhileBusy.result {s t : State} {pushed popped : List Byte} (run : WhileBusy s pushed popped t)
    (inv : Inv s) (ended : t.phase = .idle) :
    remainingInput s ≤ (s.inq ++ pushed).length ∧
    popped ++ t.outq = s.outq ++ remainingOutput s (s.inq ++ pushed) ∧
    t.crcState = finalCrc s (s.inq ++ pushed) ∧ t.inq = (s.inq ++ pushed).drop (remainingInput s) := by
  obtain ⟨crc, output, taken, split, count⟩ := run.conserves inv
  have count : remainingInput s = taken.length := by simpa [remainingInput, ended] using count
  refine ⟨?_, ?_, ?_, ?_⟩
  · simp [split, count]
  · simpa [remainingOutput, ended] using output []
  · simpa [finalCrc, remainingCrcBytes, ended] using crc []
  · rw [split, count, List.drop_left]

end Sys2Proof.Machine
end

section
/-! PROOFS. What each command computes under every schedule: the result that stands out when the command is accepted is
its pure function of the operands and the input (41_checksum.md R146, R147; 42_framer.md R165; 43_packer.md R185). -/

namespace Sys2Proof.Machine

/-! ## CRC_UPDATE and CRC_CALC -/

theorem exec_crcUpdate_of_idle {s : State} (idle : s.phase = .idle) :
    exec .crcUpdate s = .next (startCrcRun (accept s)) := by
  rw [exec_crcUpdate]
  exact issueCommand_ok idle () _

theorem exec_crcCalc_of_idle {s : State} (idle : s.phase = .idle) :
    exec .crcCalc s = .next (startCrcRun { accept s with crcState := crcInitial }) := by
  rw [exec_crcCalc]
  exact issueCommand_ok idle () _

theorem startCrcRun_queues (s : State) : (startCrcRun s).inq = s.inq ∧ (startCrcRun s).outq = s.outq := by
  obtain ⟨-, e⟩ | ⟨-, e⟩ := startCrcRun_cases s <;> rw [e] <;> exact ⟨rfl, rfl⟩

theorem startCrcRun_done_of_idle {s : State} (idle : (startCrcRun s).phase = .idle) : (startCrcRun s).done = true := by
  obtain ⟨-, e⟩ | ⟨-, e⟩ := startCrcRun_cases s <;> rw [e] at idle ⊢
  cases idle

theorem remainingInput_startCrcRun (s : State) : remainingInput (startCrcRun s) = s.len.toNat := by
  obtain ⟨none_left, e⟩ | ⟨-, e⟩ := startCrcRun_cases s <;> rw [e]
  · exact none_left.symm
  · rfl

theorem remainingOutput_startCrcRun (s : State) (input : List Byte) : remainingOutput (startCrcRun s) input = [] := by
  obtain ⟨-, e⟩ | ⟨-, e⟩ := startCrcRun_cases s <;> rw [e] <;> rfl

theorem finalCrc_startCrcRun (s : State) (input : List Byte) :
    finalCrc (startCrcRun s) input = crcRun s.crcState (input.take s.len.toNat) := by
  obtain ⟨none_left, e⟩ | ⟨-, e⟩ := startCrcRun_cases s <;> rw [e]
  · simp [finalCrc, remainingCrcBytes, none_left]
  · rfl

/-- A run of a started checksum ends with the CRC of the first LEN bytes of its input. -/
theorem startCrcRun_result {s u : State} {pushed popped : List Byte} (inv : Inv (startCrcRun s))
    (run : WhileBusy (startCrcRun s) pushed popped u) (ended : u.phase = .idle) :
    s.len.toNat ≤ (s.inq ++ pushed).length ∧ u.crcState = crcRun s.crcState ((s.inq ++ pushed).take s.len.toNat) ∧
    u.inq = (s.inq ++ pushed).drop s.len.toNat ∧ popped ++ u.outq = s.outq ∧ u.done = true := by
  obtain ⟨enough, output, crc, input⟩ := run.result inv ended
  obtain ⟨inq, outq⟩ := startCrcRun_queues s
  rw [remainingInput_startCrcRun, inq] at enough input
  rw [remainingOutput_startCrcRun, outq, List.append_nil] at output
  rw [finalCrc_startCrcRun, inq] at crc
  exact ⟨enough, crc, input, output, run.done_of_idle inv startCrcRun_done_of_idle ended⟩

/-- Settles O35: both commands start a checksum, CRC_UPDATE from the register as it is and CRC_CALC from all ones. -/
theorem checksumUnderEverySchedule : Obligations.ChecksumUnderEverySchedule := by
  intro s t u pushed popped inv idle run ended
  constructor
  · intro issued
    have inv_t := exec_inv inv issued
    cases (exec_crcUpdate_of_idle idle).symm.trans issued
    exact startCrcRun_result (s := accept s) inv_t run ended
  · intro issued
    have inv_t := exec_inv inv issued
    cases (exec_crcCalc_of_idle idle).symm.trans issued
    obtain ⟨enough, crc, rest⟩ := startCrcRun_result (s := { accept s with crcState := crcInitial }) inv_t run ended
    exact ⟨enough, congrArg (~~~ ·) crc, rest⟩

/-! ## FRAME -/

theorem exec_frame_of_idle {s : State} (idle : s.phase = .idle) :
    exec (.frame 4) s = .next (startFrame (accept s)) :=
  frameStartsWithASnapshot s idle

/-- The framing function on a payload whose length LEN holds (42_framer.md R160). -/
theorem frameBytes_of_length {len : Word} {payload : List Byte} (length : payload.length = len.toNat)
    (tag : List Byte) :
    frameBytes tag payload = be32 len ++ tag ++ payload ++ be32 (~~~ crcRun crcInitial (tag ++ payload)) := by
  rw [frameBytes, length, BitVec.ofNat_toNat, BitVec.setWidth_eq, checksum]

theorem remainingOutput_startFrame (s : State) {input : List Byte} (enough : s.len.toNat ≤ input.length) :
    remainingOutput (startFrame s) input = frameBytes (be32 s.tag) (input.take s.len.toNat) := by
  rw [frameBytes_of_length (List.length_take_of_le enough)]
  rfl

/-- Settles O36: a started frame has LEN bytes to take and the whole segment to emit. -/
theorem frameUnderEverySchedule : Obligations.FrameUnderEverySchedule := by
  intro s t u pushed popped inv idle issued run ended
  have inv_t := exec_inv inv issued
  cases (exec_frame_of_idle idle).symm.trans issued
  obtain ⟨enough, output, crc, input⟩ := run.result inv_t ended
  have done := run.done_of_idle inv_t (fun idle_t => by cases idle_t) ended
  rw [remainingOutput_startFrame (accept s) enough] at output
  exact ⟨enough, output, congrArg (~~~ ·) crc, input, done⟩

/-! ## PACK -/

/-- Packing reads the first W · H · C bytes only (43_packer.md R180). -/
theorem packBytes_take (p : List Byte) (w h c : Nat) : packBytes (p.take (w * h * c)) w h c = packBytes p w h c := by
  induction h generalizing p with
  | zero => rfl
  | succ h ih =>
    have rest : w * (h + 1) * c - w * c = w * h * c := by rw [Nat.mul_succ, Nat.add_mul, Nat.add_sub_cancel]
    have row : w * c ≤ w * (h + 1) * c := Nat.mul_le_mul_right c (Nat.le_mul_of_pos_right w h.succ_pos)
    rw [packBytes_succ, packBytes_succ, List.take_take, min_eq_left row, List.drop_take, rest, ih]

theorem remainingInput_startPack (c : Channels) (s : State) :
    remainingInput (startPack c s) = s.width.toNat * s.height.toNat * c.count :=
  calc s.height.toNat * (s.width.toNat * c.count)
    _ = s.width.toNat * s.height.toNat * c.count := by ring

/-- An issued PACK that has left IDLE has passed its checks and started (43_packer.md R183, R186). -/
theorem exec_pack_started {s t : State} (idle : s.phase = .idle) (issued : exec .pack s = .next t)
    (started : t.phase = .pkSel) : ∃ c, checkPack s = .ok c ∧ t = startPack c (accept s) := by
  obtain ⟨k, rfl⟩ | ⟨-, start⟩ := exec_cases issued
  · simp [idle] at started
  · simpa using start

/-- Settles O37: a started PACK has all its samples to take and all its rows to emit, and leaves the CRC register
alone. -/
theorem packUnderEverySchedule : Obligations.PackUnderEverySchedule := by
  intro s t u pushed popped inv idle issued started run ended
  have inv_t := exec_inv inv issued
  obtain ⟨c, -, rfl⟩ := exec_pack_started idle issued started
  obtain ⟨enough, output, crc, input⟩ := run.result inv_t ended
  have done := run.done_of_idle inv_t (fun idle_t => by cases idle_t) ended
  rw [remainingInput_startPack] at enough input
  exact ⟨enough, output.trans (congrArg _ (packBytes_take _ _ _ _).symm), crc, input, done⟩

end Sys2Proof.Machine
end

section
/-! PROOFS. The engine's turn: when it waits, what it leaves alone, what never reaches it, and how many turns a command
takes (40_commands.md R115, R117 to R119; 20_memory.md R84). -/

namespace Sys2Proof.Machine

/-! ## Waiting and moving -/

/-- The move before the last byte of the checksum, with the index it emits and the next one named. -/
theorem engineStep_frCrc_more {s : State} {i j : Fin 4} (at_phase : s.phase = .frCrc)
    (room : s.outq.length < s.params.outDepth) (at_idx : s.idx = i) (more : i ≠ 3 := by decide)
    (next : i + 1 = j := by decide) :
    engineStep s = { s with outq := s.outq ++ [be32Byte (~~~ s.crcState) i], idx := j } := by
  subst at_idx next
  exact engineStep_eq (.sumMore at_phase room more)

/-- Settles O24: without room the engine waits; with it, IDX names the byte that the move of FR_CRC emits. -/
theorem frCrcStepEmitsAChecksumByte : Obligations.FrCrcStepEmitsAChecksumByte := by
  intro s at_phase
  have needs : needsOutput s.phase = true := by rw [at_phase]; rfl
  refine ⟨fun full => ?wait, fun room => ?emit⟩
  case wait => exact engineStep_waits (engineEnabled_of_outq_full needs full)
  case emit =>
    rw [← be32Byte_zero, ← be32Byte_one, ← be32Byte_two, ← be32Byte_three]
    exact ⟨engineStep_frCrc_more at_phase room, engineStep_frCrc_more at_phase room,
      engineStep_frCrc_more at_phase room, fun last => ⟨0, engineStep_eq (.sumLast at_phase room last)⟩⟩

/-- Every move takes a byte of input or emits a byte of output, and so changes the state. -/
theorem EngineMoves.ne {s t : State} (move : EngineMoves s t) : t ≠ s := by
  intro same
  have inq : t.inq.length = s.inq.length := by rw [same]
  have outq : t.outq.length = s.outq.length := by rw [same]
  cases move with
  | crcMore _ _ _ input | crcLast _ _ _ input => simp [input] at inq
  | lenMore | lenLast | tagMore | tagLastEmpty | tagLast | payMore | payLast | sumMore | sumLast | select | rowMore
  | rowEnd | rowLast => simp at outq

theorem needsInput_iff (p : Phase) : needsInput p = true ↔ p = .crcRun ∨ p = .frPay ∨ p = .pkRow := by
  cases p <;> decide

theorem needsOutput_iff (p : Phase) : needsOutput p = true ↔ p ≠ .idle ∧ p ≠ .crcRun := by
  cases p <;> decide

/-- The engine has a step exactly where a command runs and its phase's needs are met (40_commands.md R118). -/
theorem engineEnabled_iff (s : State) :
    engineEnabled s = true ↔ s.phase ≠ .idle ∧ (needsInput s.phase = true → s.inq ≠ []) ∧
      (needsOutput s.phase = true → s.outq.length < s.params.outDepth) := by
  simp only [engineEnabled, Bool.and_eq_true, busy_iff, Bool.or_eq_true, Bool.not_eq_true', ← Bool.not_eq_true,
    List.isEmpty_iff, outputFree, decide_eq_true_eq, imp_iff_not_or, and_assoc, ne_eq]

/-- Settles O27: the engine waits where the phase has a need that is not met, and a move is no wait. -/
theorem engineWaitsExactlyWhenItsNeedsAreUnmet : Obligations.EngineWaitsExactlyWhenItsNeedsAreUnmet := by
  intro s
  refine ⟨fun idle => ?idle, fun takes empty => ?input, fun emits full => ?output, fun running input room => ?moves⟩
  case idle => exact engineStep_waits (by simp [engineEnabled, (busy_false_iff s).mpr idle])
  case input => exact engineStep_waits (engineEnabled_of_inq_nil ((needsInput_iff _).mpr takes) empty)
  case output =>
    have needs : needsOutput s.phase = true := by
      rw [needsOutput_iff]
      obtain p | p | p | p | p | p := emits <;> simp [p]
    exact engineStep_waits (engineEnabled_of_outq_full needs full)
  case moves =>
    have enabled : engineEnabled s = true :=
      (engineEnabled_iff s).mpr ⟨running, fun takes => input ((needsInput_iff _).mp takes),
        fun emits => room ((needsOutput_iff _).mp emits).2⟩
    exact (engineStep_moves enabled).ne

/-! ## The frame of a move -/

theorem EngineMoves.sameOperands {s t : State} (move : EngineMoves s t) : SameOperands s t := by
  cases move <;> exact ⟨rfl, rfl, rfl, rfl, rfl, rfl, rfl⟩

theorem EngineMoves.sameOutside {s t : State} (move : EngineMoves s t) : SameOutside s t := by
  cases move <;> exact ⟨rfl, rfl, rfl, rfl⟩

theorem EngineMoves.sameFlags {s t : State} (move : EngineMoves s t) :
    t.ieDone = s.ieDone ∧ t.ieErr = s.ieErr ∧ t.err = s.err ∧ t.errCode = s.errCode ∧ t.inOvf = s.inOvf := by
  cases move <;> exact ⟨rfl, rfl, rfl, rfl, rfl⟩

theorem EngineMoves.sameSnapshots {s t : State} (move : EngineMoves s t) :
    t.sLen = s.sLen ∧ t.sTag = s.sTag ∧ t.sW = s.sW ∧ t.sC = s.sC := by
  cases move <;> exact ⟨rfl, rfl, rfl, rfl⟩

/-- Only the phases that absorb a byte write the CRC register. -/
theorem EngineMoves.crcState_eq {s t : State} (move : EngineMoves s t) :
    t.crcState = s.crcState ∨ s.phase = .crcRun ∨ s.phase = .frTag ∨ s.phase = .frPay := by
  cases move with
  | crcMore _ _ at_phase | crcLast _ _ at_phase => exact .inr (.inl at_phase)
  | tagMore at_phase | tagLastEmpty at_phase | tagLast at_phase => exact .inr (.inr (.inl at_phase))
  | payMore _ _ at_phase | payLast _ _ at_phase => exact .inr (.inr (.inr at_phase))
  | lenMore | lenLast | sumMore | sumLast | select | rowMore | rowEnd | rowLast => exact .inl rfl

theorem EngineMoves.inq_eq {s t : State} (move : EngineMoves s t) : t.inq = s.inq ∨ ∃ b, s.inq = b :: t.inq := by
  cases move with
  | crcMore b _ _ input | crcLast b _ _ input | payMore b _ _ input | payLast b _ _ input | rowMore b _ _ input
  | rowEnd b _ _ input | rowLast b _ _ input => exact .inr ⟨b, input⟩
  | lenMore | lenLast | tagMore | tagLastEmpty | tagLast | sumMore | sumLast | select => exact .inl rfl

theorem EngineMoves.outq_eq {s t : State} (move : EngineMoves s t) : t.outq = s.outq ∨ ∃ b, t.outq = s.outq ++ [b] := by
  cases move with
  | crcMore | crcLast => exact .inl rfl
  | lenMore | lenLast | tagMore | tagLastEmpty | tagLast | payMore | payLast | sumMore | sumLast | select | rowMore
  | rowEnd | rowLast => exact .inr ⟨_, rfl⟩

theorem EngineMoves.done_eq {s t : State} (move : EngineMoves s t) :
    t.done = s.done ∨ (t.done = true ∧ t.phase = .idle) := by
  cases move with
  | crcLast | sumLast | rowLast => exact .inr ⟨rfl, rfl⟩
  | crcMore | lenMore | lenLast | tagMore | tagLastEmpty | tagLast | payMore | payLast | sumMore | select | rowMore
  | rowEnd => exact .inl rfl

/-- Settles O28: a wait changes nothing, and each part of the frame holds of every move. -/
theorem engineStepFrame : Obligations.EngineStepFrame := by
  intro s
  cases enabled : engineEnabled s with
  | false => simp [engineStep_waits enabled, SameOperands, SameOutside]
  | true =>
    have move := engineStep_moves enabled
    obtain ⟨ieDone, ieErr, err, errCode, inOvf⟩ := move.sameFlags
    obtain ⟨sLen, sTag, sW, sC⟩ := move.sameSnapshots
    refine ⟨move.sameOperands, move.sameOutside, ieDone, ieErr, err, errCode, inOvf, sLen, sTag, sW, sC,
      fun at_phase => ?crc, move.inq_eq, move.outq_eq, move.done_eq⟩
    case crc =>
      obtain kept | absorbs := move.crcState_eq
      · exact kept
      · obtain p | p | p := absorbs <;> simp [p] at at_phase

/-- A move reads no operand register: with other operands the same move is there. -/
theorem EngineMoves.withOperandsOf {s u : State} (move : EngineMoves s u) (t : State) :
    EngineMoves (withOperandsOf t s) (withOperandsOf t u) := by
  cases move with
  | crcMore b rest at_phase input more => exact .crcMore b rest at_phase input more
  | crcLast b rest at_phase input last => exact .crcLast b rest at_phase input last
  | lenMore at_phase room more => exact .lenMore at_phase room more
  | lenLast at_phase room last => exact .lenLast at_phase room last
  | tagMore at_phase room more => exact .tagMore at_phase room more
  | tagLastEmpty at_phase room last empty => exact .tagLastEmpty at_phase room last empty
  | tagLast at_phase room last payload => exact .tagLast at_phase room last payload
  | payMore b rest at_phase input room more => exact .payMore b rest at_phase input room more
  | payLast b rest at_phase input room last => exact .payLast b rest at_phase input room last
  | sumMore at_phase room more => exact .sumMore at_phase room more
  | sumLast at_phase room last => exact .sumLast at_phase room last
  | select at_phase room => exact .select at_phase room
  | rowMore b rest at_phase input room more => exact .rowMore b rest at_phase input room more
  | rowEnd b rest at_phase input room last more => exact .rowEnd b rest at_phase input room last more
  | rowLast b rest at_phase input room last lastRow => exact .rowLast b rest at_phase input room last lastRow

/-- Settles O29: with the operands replaced the engine waits where it waited and makes the move it made. -/
theorem operandRegistersDoNotReachTheEngine : Obligations.OperandRegistersDoNotReachTheEngine := by
  intro s t
  have enabled_eq : engineEnabled (withOperandsOf t s) = engineEnabled s := rfl
  cases enabled : engineEnabled s with
  | false => rw [engineStep_waits enabled, engineStep_waits (enabled_eq.trans enabled)]
  | true => exact engineStep_eq ((engineStep_moves enabled).withOperandsOf t)

/-! ## Counting -/

theorem idx_succ : ∀ {i : Fin 4}, i ≠ 3 → (i + 1).val = i.val + 1 ∧ i.val < 3 := by decide

/-- Every move is one of the steps to go (40_commands.md R119). -/
theorem EngineMoves.remainingSteps_eq {s t : State} (move : EngineMoves s t) (ok : PhaseOk s) :
    remainingSteps t + 1 = remainingSteps s := by
  obtain ⟨crcOk, payOk, selOk, rowOk⟩ := ok
  cases move with
  | crcMore _ _ at_phase | payMore _ _ at_phase | rowMore _ _ at_phase =>
    simp only [remainingSteps, at_phase, rowSamples]; omega
  | crcLast _ _ at_phase =>
    have := crcOk at_phase
    simp only [remainingSteps, at_phase]; omega
  | lenMore at_phase room more | tagMore at_phase room more | sumMore at_phase room more =>
    have next := idx_succ more
    simp only [remainingSteps, at_phase]; omega
  | lenLast at_phase room last | tagLast at_phase room last =>
    simp [remainingSteps, at_phase, last]; omega
  | sumLast at_phase room last => simp [remainingSteps, at_phase, last]
  | tagLastEmpty at_phase room last empty => simp [remainingSteps, at_phase, last, empty]
  | payLast _ _ at_phase =>
    have := payOk at_phase
    simp only [remainingSteps, at_phase]; omega
  | select at_phase =>
    obtain ⟨row, -, -⟩ := selOk at_phase
    obtain ⟨h, rows⟩ := Nat.exists_eq_add_of_le' row
    simp [remainingSteps, at_phase, rows, rowSamples]; ring
  | rowEnd _ _ at_phase =>
    have := rowOk at_phase
    simp only [remainingSteps, at_phase, rowSamples]; omega
  | rowLast _ _ at_phase _ _ _ lastRow =>
    obtain ⟨row, -, -, count, -⟩ := rowOk at_phase
    have last_row : s.rows = 1 := by omega
    simp only [remainingSteps, at_phase, last_row]; omega

/-- No steps to go is idle: every other phase has its counter, its index or its rows. -/
theorem remainingSteps_eq_zero_iff {s : State} (ok : PhaseOk s) : remainingSteps s = 0 ↔ s.phase = .idle := by
  have idx := s.idx.isLt
  cases at_phase : s.phase with
  | idle => simp [remainingSteps, at_phase]
  | crcRun =>
    have := (phaseOk_crcRun at_phase).mp ok
    simp [remainingSteps, at_phase]; omega
  | frLen | frTag | frPay => simp [remainingSteps, at_phase]
  | frCrc => simp [remainingSteps, at_phase]; omega
  | pkSel =>
    have := (phaseOk_pkSel at_phase).mp ok
    simp [remainingSteps, at_phase]; omega
  | pkRow =>
    have := (phaseOk_pkRow at_phase).mp ok
    simp [remainingSteps, at_phase]; omega

theorem remainingSteps_startCrcRun (s : State) : remainingSteps (startCrcRun s) = s.len.toNat := by
  obtain ⟨none_left, e⟩ | ⟨-, e⟩ := startCrcRun_cases s <;> rw [e]
  · exact none_left.symm
  · rfl

theorem remainingSteps_startFrame (s : State) : remainingSteps (startFrame s) = 12 + s.len.toNat := by
  simp only [remainingSteps, startFrame]
  simp
  omega

/-- Settles O31: a move is one step of those to go, and each command starts with the steps of its start action. -/
theorem engineStepsAreCounted : Obligations.EngineStepsAreCounted := by
  refine ⟨?moves, ?zero, ?checksum, ?frame, ?pack⟩
  case moves =>
    rintro s ⟨-, -, -, ok⟩ enabled
    exact (engineStep_moves enabled).remainingSteps_eq ok
  case zero =>
    rintro s ⟨-, -, -, ok⟩
    exact remainingSteps_eq_zero_iff ok
  case checksum =>
    rintro s t idle (update | fresh)
    · cases (exec_crcUpdate_of_idle idle).symm.trans update
      exact remainingSteps_startCrcRun (accept s)
    · cases (exec_crcCalc_of_idle idle).symm.trans fresh
      exact remainingSteps_startCrcRun { accept s with crcState := crcInitial }
  case frame =>
    intro s t idle issued
    cases (exec_frame_of_idle idle).symm.trans issued
    exact remainingSteps_startFrame (accept s)
  case pack =>
    intro s t issued idle started
    obtain ⟨c, -, rfl⟩ := exec_pack_started idle issued started
    rfl

end Sys2Proof.Machine
end

section
/-! PROOFS. Commands whose input and room are at hand run to completion in the engine's steps alone (40_commands.md
R119; 41_checksum.md R146, R147; 42_framer.md R172; 43_packer.md R189). -/

namespace Sys2Proof.Machine

/-! ## Runs of the engine -/

/-- `EngineRun n s t`: `n` moves of the engine lead from `s` to `t`. -/
inductive EngineRun : Nat → State → State → Prop where
  | refl (s : State) : EngineRun 0 s s
  | step {n : Nat} {s t u : State} (move : EngineMoves s t) (rest : EngineRun n t u) : EngineRun (n + 1) s u

theorem EngineRun.one {s t : State} (move : EngineMoves s t) : EngineRun 1 s t := .step move (.refl t)

theorem EngineRun.trans {m n : Nat} {s t u : State} (first : EngineRun m s t) (second : EngineRun n t u) :
    EngineRun (m + n) s u := by
  induction first with
  | refl s => rwa [Nat.zero_add]
  | step move _ ih =>
    rw [Nat.succ_add]
    exact .step move (ih second)

/-- With the schedule at its end, the moves of the engine are the steps of the machine. -/
theorem EngineRun.runSteps_eq {n : Nat} {s t : State} (run : EngineRun n s t) (sched_end : s.sched = []) :
    runSteps n s = .next t := by
  induction run with
  | refl s => exact runSteps_zero s
  | step move _ ih =>
    obtain ⟨-, sched, -⟩ := move.sameOutside
    rw [runSteps_succ (step_of_moves sched_end move)]
    exact ih (sched.trans sched_end)

/-! ## CRC_RUN -/

theorem startCrcRun_sched (s : State) : (startCrcRun s).sched = s.sched := by
  obtain ⟨-, e⟩ | ⟨-, e⟩ := startCrcRun_cases s <;> rw [e]

/-- The engine absorbs the CNT bytes at hand and completes (41_checksum.md R148). -/
theorem crcRun_engineRun {bytes rest : List Byte} (some_left : bytes ≠ []) {s : State} (at_phase : s.phase = .crcRun)
    (input : s.inq = bytes ++ rest) (count : s.cnt = bytes.length) :
    EngineRun bytes.length s
      { s with inq := rest, crcState := crcRun s.crcState bytes, cnt := 0, phase := .idle, done := true } := by
  induction bytes generalizing s with
  | nil => exact absurd rfl some_left
  | cons b bytes ih =>
    cases bytes with
    | nil => exact .one (.crcLast b rest at_phase input count.le)
    | cons b' bytes =>
      rw [List.length_cons] at count
      have move := EngineMoves.crcMore b (b' :: bytes ++ rest) at_phase input (by simp [count])
      exact .step move (ih (by simp) at_phase rfl (by simp [count]))

/-- A started checksum whose LEN bytes are at hand, in both forms of its start (41_checksum.md R146, R147). -/
theorem startCrcRun_engineRun {bytes rest : List Byte} {s : State} (input : s.inq = bytes ++ rest)
    (length : bytes.length = s.len.toNat) :
    EngineRun s.len.toNat (startCrcRun s)
      { s with inq := rest, crcState := crcRun s.crcState bytes, cnt := 0, phase := .idle, done := true } := by
  obtain ⟨none_left, e⟩ | ⟨some_left, e⟩ := startCrcRun_cases s <;> rw [e]
  · obtain rfl : bytes = [] := List.eq_nil_of_length_eq_zero (length.trans none_left)
    obtain rfl : s.inq = rest := input
    rw [none_left, crcRun_nil]
    exact .refl _
  · have nonempty : bytes ≠ [] := by rintro rfl; simp [← length] at some_left
    rw [← length]
    exact crcRun_engineRun nonempty rfl input rfl

/-- Settles O32: each command starts a checksum, and the engine carries it to its end. -/
theorem checksumRunsToCompletion : Obligations.ChecksumRunsToCompletion := by
  intro s bytes rest idle sched input length
  refine ⟨⟨_, exec_crcUpdate_of_idle idle, ?update⟩, ⟨_, exec_crcCalc_of_idle idle, ?fresh⟩⟩
  case update =>
    have run := startCrcRun_engineRun (s := accept s) input length
    rw [← idle] at run
    exact run.runSteps_eq ((startCrcRun_sched _).trans sched)
  case fresh =>
    have run := startCrcRun_engineRun (s := { accept s with crcState := crcInitial }) input length
    rw [← idle] at run
    exact run.runSteps_eq ((startCrcRun_sched _).trans sched)

/-! ## FRAME

The three 4-byte fields are run from any index, by induction on the bytes still to come after the next one. -/

/-- The bytes of the length still to emit (42_framer.md R168). -/
theorem frLen_engineRun {n : Nat} {s : State} (at_phase : s.phase = .frLen) (left : s.idx.val + n = 3)
    (room : s.outq.length + n < s.params.outDepth) :
    EngineRun (n + 1) s { s with outq := s.outq ++ (be32 s.sLen).drop s.idx, idx := 0, phase := .frTag } := by
  induction n generalizing s with
  | zero =>
    have last : s.idx = 3 := Fin.ext left
    rw [last]
    exact .one (.lenLast at_phase room last)
  | succ n ih =>
    have more : s.idx ≠ 3 := by rintro last; simp [last] at left
    have next : (s.idx + 1).val + n = 3 := by rw [(idx_succ more).1]; omega
    have run := ih (s := { s with outq := s.outq ++ [be32Byte s.sLen s.idx], idx := s.idx + 1 }) at_phase next
      (by simp; omega)
    rw [be32_drop_more _ more, ← List.singleton_append, ← List.append_assoc]
    exact .step (.lenMore at_phase (by omega) more) run

/-- The bytes of the tag still to emit and absorb (42_framer.md R169). -/
theorem frTag_engineRun {n : Nat} {s : State} (at_phase : s.phase = .frTag) (left : s.idx.val + n = 3)
    (room : s.outq.length + n < s.params.outDepth) :
    EngineRun (n + 1) s
      (afterTag
        { s with
          outq := s.outq ++ (be32 s.sTag).drop s.idx, crcState := crcRun s.crcState ((be32 s.sTag).drop s.idx)
          idx := 0 }) := by
  induction n generalizing s with
  | zero =>
    have last : s.idx = 3 := Fin.ext left
    rw [last, afterTag]
    split
    next empty => exact .one (.tagLastEmpty at_phase room last empty)
    next payload => exact .one (.tagLast at_phase room last payload)
  | succ n ih =>
    have more : s.idx ≠ 3 := by rintro last; simp [last] at left
    have next : (s.idx + 1).val + n = 3 := by rw [(idx_succ more).1]; omega
    have run := ih
      (s := { s with
        outq := s.outq ++ [be32Byte s.sTag s.idx], crcState := crcByte s.crcState (be32Byte s.sTag s.idx)
        idx := s.idx + 1 })
      at_phase next (by simp; omega)
    rw [be32_drop_more _ more, crcRun_cons, ← List.singleton_append, ← List.append_assoc]
    exact .step (.tagMore at_phase (by omega) more) run

/-- The CNT payload bytes at hand pass through (42_framer.md R170). -/
theorem frPay_engineRun {bytes rest : List Byte} (some_left : bytes ≠ []) {s : State} (at_phase : s.phase = .frPay)
    (input : s.inq = bytes ++ rest) (count : s.cnt = bytes.length)
    (room : s.outq.length + bytes.length ≤ s.params.outDepth) :
    EngineRun bytes.length s
      { s with
        inq := rest, outq := s.outq ++ bytes, crcState := crcRun s.crcState bytes, cnt := 0, idx := 0
        phase := .frCrc } := by
  induction bytes generalizing s with
  | nil => exact absurd rfl some_left
  | cons b bytes ih =>
    rw [List.length_cons] at count room
    cases bytes with
    | nil => exact .one (.payLast b rest at_phase input (by omega) count.le)
    | cons b' bytes =>
      have move := EngineMoves.payMore b (b' :: bytes ++ rest) at_phase input (by omega) (by simp [count])
      have run := ih (by simp) (s := { s with
        inq := b' :: bytes ++ rest, outq := s.outq ++ [b], crcState := crcByte s.crcState b, cnt := s.cnt - 1 })
        at_phase rfl (by simp [count]) (by simp only [List.length_append, List.length_singleton]; omega)
      rw [← List.singleton_append, ← List.append_assoc]
      exact .step move run

/-- The payload, where there is one, between the tag and the checksum (42_framer.md R169, R170). -/
theorem afterTag_engineRun {payload rest : List Byte} {s : State} (at_idx : s.idx = 0)
    (input : s.inq = payload ++ rest) (length : payload.length = s.sLen.toNat)
    (room : s.outq.length + payload.length ≤ s.params.outDepth) :
    ∃ n, EngineRun payload.length (afterTag s)
      { s with
        inq := rest, outq := s.outq ++ payload, crcState := crcRun s.crcState payload, cnt := n
        phase := .frCrc } := by
  rw [afterTag, ← length]
  split
  next empty =>
    obtain rfl : payload = [] := List.eq_nil_of_length_eq_zero empty
    obtain rfl : s.inq = rest := input
    rw [List.append_nil]
    exact ⟨s.cnt, .refl _⟩
  next some_left =>
    have nonempty : payload ≠ [] := by rintro rfl; exact some_left rfl
    have run := frPay_engineRun nonempty (s := { s with cnt := payload.length, phase := .frPay }) rfl input rfl room
    rw [← at_idx] at run
    exact ⟨0, run⟩

/-- The bytes of the checksum still to emit (42_framer.md R171). -/
theorem frCrc_engineRun {n : Nat} {s : State} (at_phase : s.phase = .frCrc) (left : s.idx.val + n = 3)
    (room : s.outq.length + n < s.params.outDepth) :
    EngineRun (n + 1) s
      { s with outq := s.outq ++ (be32 (~~~ s.crcState)).drop s.idx, idx := 0, phase := .idle, done := true } := by
  induction n generalizing s with
  | zero =>
    have last : s.idx = 3 := Fin.ext left
    rw [last]
    exact .one (.sumLast at_phase room last)
  | succ n ih =>
    have more : s.idx ≠ 3 := by rintro last; simp [last] at left
    have next : (s.idx + 1).val + n = 3 := by rw [(idx_succ more).1]; omega
    have run := ih (s := { s with outq := s.outq ++ [be32Byte (~~~ s.crcState) s.idx], idx := s.idx + 1 }) at_phase
      next (by simp; omega)
    rw [be32_drop_more _ more, ← List.singleton_append, ← List.append_assoc]
    exact .step (.sumMore at_phase (by omega) more) run

/-- A started frame whose payload and room are at hand emits the whole segment (42_framer.md R160, R172). -/
theorem startFrame_engineRun {payload rest : List Byte} {s : State} (input : s.inq = payload ++ rest)
    (length : payload.length = s.len.toNat) (room : s.outq.length + (12 + s.len.toNat) ≤ s.params.outDepth) :
    ∃ n, EngineRun (12 + s.len.toNat) (startFrame s)
      { s with
        inq := rest, outq := s.outq ++ frameBytes (be32 s.tag) payload
        crcState := crcRun crcInitial (be32 s.tag ++ payload)
        sLen := s.len, sTag := s.tag, cnt := n, idx := 0, phase := .idle, done := true } := by
  have lenRun := frLen_engineRun (n := 3) (s := startFrame s) rfl rfl (by simp only [startFrame]; omega)
  have tagRun := frTag_engineRun (n := 3)
    (s := { startFrame s with outq := s.outq ++ be32 s.len, phase := .frTag }) rfl rfl
    (by simp [startFrame]; omega)
  obtain ⟨n, payRun⟩ := afterTag_engineRun (payload := payload) (rest := rest)
    (s := { startFrame s with
      outq := s.outq ++ be32 s.len ++ be32 s.tag, crcState := crcRun crcInitial (be32 s.tag), phase := .frTag })
    rfl input length (by simp [startFrame]; omega)
  have sumRun := frCrc_engineRun (n := 3)
    (s := { startFrame s with
      inq := rest, outq := s.outq ++ be32 s.len ++ be32 s.tag ++ payload
      crcState := crcRun (crcRun crcInitial (be32 s.tag)) payload, cnt := n, phase := .frCrc })
    rfl rfl (by simp [startFrame]; omega)
  have steps : 12 + s.len.toNat = 4 + (4 + (payload.length + 4)) := by omega
  have output : s.outq ++ frameBytes (be32 s.tag) payload =
      s.outq ++ be32 s.len ++ be32 s.tag ++ payload ++
        be32 (~~~ crcRun (crcRun crcInitial (be32 s.tag)) payload) := by
    simp only [frameBytes_of_length length, crcRun_append, List.append_assoc]
  rw [steps, output, crcRun_append]
  exact ⟨n, lenRun.trans (tagRun.trans (payRun.trans sumRun))⟩

/-- Settles O33: the command starts a frame, and the engine carries it to its end. -/
theorem frameRunsToCompletion : Obligations.FrameRunsToCompletion := by
  intro s payload rest idle sched input length room
  obtain ⟨n, run⟩ := startFrame_engineRun (s := accept s) input length room
  rw [← idle] at run
  exact ⟨_, n, 0, exec_frame_of_idle idle, run.runSteps_eq sched⟩

/-! ## PACK -/

theorem afterRow_more {h : Nat} {s : State} (rows : s.rows = h + 2) :
    afterRow s = { s with rows := h + 1, phase := .pkSel } := by
  simp [afterRow, rows]

theorem afterRow_last {s : State} (rows : s.rows = 1) :
    afterRow s = { s with rows := 0, phase := .idle, done := true } := by
  simp [afterRow, rows, complete]

/-- The CNT samples of a row at hand, and what follows the last of them (43_packer.md R188). -/
theorem pkRow_engineRun {bytes rest : List Byte} (some_left : bytes ≠ []) {s : State} (at_phase : s.phase = .pkRow)
    (input : s.inq = bytes ++ rest) (count : s.cnt = bytes.length)
    (room : s.outq.length + bytes.length ≤ s.params.outDepth) :
    EngineRun bytes.length s (afterRow { s with inq := rest, outq := s.outq ++ bytes, cnt := 0 }) := by
  induction bytes generalizing s with
  | nil => exact absurd rfl some_left
  | cons b bytes ih =>
    rw [List.length_cons] at count room
    cases bytes with
    | nil =>
      rw [afterRow]
      split
      next last_row =>
        rw [last_row]
        exact .one (.rowLast b rest at_phase input (by omega) count.le (Nat.sub_eq_zero_iff_le.mp last_row))
      next more => exact .one (.rowEnd b rest at_phase input (by omega) count.le (by dsimp only at more; omega))
    | cons b' bytes =>
      have move := EngineMoves.rowMore b (b' :: bytes ++ rest) at_phase input (by omega) (by simp [count])
      have run := ih (by simp)
        (s := { s with inq := b' :: bytes ++ rest, outq := s.outq ++ [b], cnt := s.cnt - 1 })
        at_phase rfl (by simp [count]) (by simp only [List.length_append, List.length_singleton]; omega)
      rw [← List.singleton_append, ← List.append_assoc]
      exact .step move run

/-- One whole row: its filter byte and its samples (43_packer.md R187, R188). -/
theorem row_engineRun {row rest : List Byte} {s : State} (at_phase : s.phase = .pkSel) (some_samples : row ≠ [])
    (input : s.inq = row ++ rest) (length : row.length = rowSamples s)
    (room : s.outq.length + (1 + rowSamples s) ≤ s.params.outDepth) :
    EngineRun (1 + rowSamples s) s
      (afterRow { s with inq := rest, outq := s.outq ++ filterByte :: row, cnt := 0, phase := .pkRow }) := by
  have select := EngineMoves.select at_phase (by omega)
  have run := pkRow_engineRun some_samples
    (s := { s with outq := s.outq ++ [filterByte], cnt := rowSamples s, phase := .pkRow }) rfl input length.symm
    (by simp; omega)
  rw [← length, ← List.singleton_append, ← List.append_assoc]
  exact (EngineRun.one select).trans run

/-- All the rows of a started PACK, by induction on their number (43_packer.md R189). -/
theorem pkSel_engineRun {h : Nat} {samples rest : List Byte} {s : State} (at_phase : s.phase = .pkSel)
    (rows : s.rows = h + 1) (some_samples : 1 ≤ rowSamples s) (input : s.inq = samples ++ rest)
    (length : samples.length = (h + 1) * rowSamples s)
    (room : s.outq.length + (h + 1) * (1 + rowSamples s) ≤ s.params.outDepth) :
    EngineRun ((h + 1) * (1 + rowSamples s)) s
      { s with
        inq := rest, outq := s.outq ++ packBytes samples s.sW.toNat (h + 1) s.sC.count, rows := 0, cnt := 0
        phase := .idle, done := true } := by
  induction h generalizing s samples with
  | zero =>
    rw [Nat.zero_add, Nat.one_mul] at length room ⊢
    have row : samples ≠ [] := by rintro rfl; simp at length; omega
    have run := row_engineRun at_phase row input length room
    have all_packed : packBytes samples s.sW.toNat 1 s.sC.count = filterByte :: samples := by
      have whole : samples.length ≤ s.sW.toNat * s.sC.count := length.le
      rw [packBytes_succ, packBytes_zero, List.append_nil, List.take_of_length_le whole]
    rw [all_packed]
    rwa [afterRow_last (by exact rows)] at run
  | succ h ih =>
    have long : rowSamples s ≤ samples.length := by rw [length]; exact Nat.le_mul_of_pos_left _ (by omega)
    have row_length : (samples.take (rowSamples s)).length = rowSamples s := List.length_take_of_le long
    have row : samples.take (rowSamples s) ≠ [] := by
      rw [← List.length_pos_iff, row_length]
      exact some_samples
    have split : s.inq = samples.take (rowSamples s) ++ (samples.drop (rowSamples s) ++ rest) := by
      rw [← List.append_assoc, List.take_append_drop, input]
    have steps : (h + 1 + 1) * (1 + rowSamples s) = (1 + rowSamples s) + (h + 1) * (1 + rowSamples s) := by ring
    rw [steps] at room ⊢
    have first := row_engineRun at_phase row split row_length (by omega)
    rw [afterRow_more (by exact rows)] at first
    have others := ih (samples := samples.drop (rowSamples s))
      (s := { s with
        inq := samples.drop (rowSamples s) ++ rest, outq := s.outq ++ filterByte :: samples.take (rowSamples s)
        cnt := 0, rows := h + 1, phase := .pkSel })
      rfl rfl some_samples rfl
      (by rw [List.length_drop, length, Nat.succ_mul (h + 1), Nat.add_sub_cancel]; rfl)
      (by rw [List.length_append, List.length_cons, row_length, Nat.add_comm _ 1, Nat.add_assoc]; exact room)
    rw [packBytes_succ, ← List.append_assoc]
    exact first.trans others

/-- Settles O34: the command passes its checks and starts, and the engine carries it to its end. -/
theorem packRunsToCompletion : Obligations.PackRunsToCompletion := by
  intro s c samples rest idle sched color w_pos w_max h_pos h_max buffer input length room
  have channels : channelsOf s.colorType = some c := by
    obtain ⟨rgb, rfl⟩ | ⟨rgba, rfl⟩ := color
    · exact channelsOf_rgb rgb
    · exact channelsOf_rgba rgba
  have passes : checkPack s = .ok c :=
    checkPack_eq_ok channels (dimensionInRange_iff.mpr ⟨w_pos, w_max⟩) (dimensionInRange_iff.mpr ⟨h_pos, h_max⟩)
      ((bufLen_toNat s).trans buffer)
  obtain ⟨h, rows⟩ := Nat.exists_eq_add_of_le' h_pos
  have some_samples : 1 ≤ s.width.toNat * c.count := le_trans (by decide) (row_bounds w_pos w_max c).1
  have all_samples : samples.length = (h + 1) * (s.width.toNat * c.count) := by rw [length, rows]; ring
  rw [rows] at room ⊢
  have run := pkSel_engineRun (s := startPack c (accept s)) rfl rows some_samples input all_samples room
  rw [← idle] at run
  exact ⟨_, exec_pack_of_check_ok idle passes, run.runSteps_eq sched⟩

end Sys2Proof.Machine
end

section
/-! PROOFS. Decoding and encoding are inverse up to the ignored bits (30_encoding.md R91, R93, R94). -/

namespace Sys2Proof

@[simp] theorem opcodeOf_cmdWord (taglen : BitVec 3) (opcode : Byte) : opcodeOf (cmdWord taglen opcode) = opcode := by
  unfold opcodeOf cmdWord
  exact BitVec.extractLsb'_append_eq_right

/-- Bits 7:0 are OPCODE, bits 10:8 TAGLEN, and the others zero (30_encoding.md R91). -/
theorem getLsbD_cmdWord (taglen : BitVec 3) (opcode : Byte) (k : Nat) :
    (cmdWord taglen opcode).getLsbD k = if k < 8 then opcode.getLsbD k else taglen.getLsbD (k - 8) := by
  have outer : (cmdWord taglen opcode).getLsbD k =
      if k < 8 then opcode.getLsbD k else (0#21 ++ taglen).getLsbD (k - 8) := BitVec.getLsbD_append
  have inner : (0#21 ++ taglen).getLsbD (k - 8) = taglen.getLsbD (k - 8) := by
    rw [BitVec.getLsbD_append]
    split
    · rfl
    next above => simp [BitVec.getLsbD_of_ge taglen _ (Nat.not_lt.mp above)]
  rw [outer, inner]

@[simp] theorem taglenOf_cmdWord (taglen : BitVec 3) (opcode : Byte) : taglenOf (cmdWord taglen opcode) = taglen := by
  apply BitVec.eq_of_getLsbD_eq
  intro k hk
  simp [taglenOf, getLsbD_cmdWord, hk]

/-- Settles O2: each word's OPCODE and TAGLEN are computed. -/
theorem writtenOutWordsDecode : Obligations.WrittenOutWordsDecode := by
  refine ⟨decode_nop ?_, decode_crcInit ?_, decode_crcUpdate ?_, decode_crcCalc ?_, decode_frame ?_, decode_pack ?_,
    decode_nop ?_, decode_crcUpdate ?_, decode_frame ?_, decode_frame ?_⟩ <;> rfl

/-- Settles O3: the encoding holds the command's OPCODE, and for FRAME a TAGLEN that fits its three bits. -/
theorem decodeUndoesEncode : Obligations.DecodeUndoesEncode := by
  intro i wellFormed
  cases i with
  | nop => exact decode_nop (opcodeOf_cmdWord _ _)
  | crcInit => exact decode_crcInit (opcodeOf_cmdWord _ _)
  | crcUpdate => exact decode_crcUpdate (opcodeOf_cmdWord _ _)
  | crcCalc => exact decode_crcCalc (opcodeOf_cmdWord _ _)
  | pack => exact decode_pack (opcodeOf_cmdWord _ _)
  | frame taglen =>
    have fits : taglen < 2 ^ 3 := Nat.lt_succ_of_le (of_decide_eq_true wellFormed)
    calc decode (encode (.frame taglen))
      _ = .ok (.frame (taglenOf (cmdWord (BitVec.ofNat 3 taglen) 0x04)).toNat) := decode_frame (opcodeOf_cmdWord _ _)
      _ = .ok (.frame taglen) := by rw [taglenOf_cmdWord, BitVec.toNat_ofNat, Nat.mod_eq_of_lt fits]

/-- The word rebuilt from its own OPCODE has lost bits 31:8. -/
theorem cmdWord_zero_opcodeOf (w : Word) : cmdWord 0 (opcodeOf w) = w &&& 0x000000FF#32 := by
  have mask : 0x000000FF#32 = (BitVec.allOnes 8).setWidth 32 := rfl
  apply BitVec.eq_of_getLsbD_eq
  intro k hk
  rw [mask, getLsbD_cmdWord, BitVec.getLsbD_and, BitVec.getLsbD_setWidth, BitVec.getLsbD_allOnes]
  by_cases low : k < 8 <;> simp [opcodeOf, hk, low]

/-- The word rebuilt from its own TAGLEN and OPCODE has lost bits 31:11. -/
theorem cmdWord_taglenOf_opcodeOf (w : Word) : cmdWord (taglenOf w) (opcodeOf w) = w &&& 0x000007FF#32 := by
  have mask : 0x000007FF#32 = (BitVec.allOnes 11).setWidth 32 := rfl
  apply BitVec.eq_of_getLsbD_eq
  intro k hk
  rw [mask, getLsbD_cmdWord, BitVec.getLsbD_and, BitVec.getLsbD_setWidth, BitVec.getLsbD_allOnes]
  by_cases low : k < 8
  · have kept : k < 11 := by omega
    simp [opcodeOf, hk, low, kept]
  · obtain ⟨j, rfl⟩ := Nat.exists_eq_add_of_le (Nat.not_lt.mp low)
    have kept : 8 + j < 11 ↔ j < 3 := by omega
    simp [taglenOf, hk, kept, Bool.and_comm]

/-- What a word that decodes to a command says of it: OPCODE names it, and TAGLEN is FRAME's operand. -/
theorem decode_ok {w : Word} {i : Instr} (h : decode w = .ok i) :
    (opcodeOf w = 0x04 ∧ i = .frame (taglenOf w).toNat) ∨
    (opcodeOf w ≠ 0x04 ∧ i.wellFormed = true ∧ encode i = cmdWord 0 (opcodeOf w)) := by
  have other {opcode : Byte} (is : (opcodeOf w).toNat = opcode.toNat) (ne : opcode ≠ 0x04)
      (encoded : i.wellFormed = true ∧ encode i = cmdWord 0 opcode) :
      opcodeOf w ≠ 0x04 ∧ i.wellFormed = true ∧ encode i = cmdWord 0 (opcodeOf w) := by
    obtain rfl := BitVec.eq_of_toNat_eq is
    exact ⟨ne, encoded⟩
  unfold decode at h
  split at h <;> cases h
  next is => exact .inr (other (opcode := 0x00) is (by decide) ⟨rfl, rfl⟩)
  next is => exact .inr (other (opcode := 0x01) is (by decide) ⟨rfl, rfl⟩)
  next is => exact .inr (other (opcode := 0x02) is (by decide) ⟨rfl, rfl⟩)
  next is => exact .inr (other (opcode := 0x03) is (by decide) ⟨rfl, rfl⟩)
  next is => exact .inl ⟨BitVec.eq_of_toNat_eq is, rfl⟩
  next is => exact .inr (other (opcode := 0x05) is (by decide) ⟨rfl, rfl⟩)

/-- Settles O4: FRAME keeps OPCODE and TAGLEN, every other command OPCODE alone. -/
theorem encodeClearsOnlyIgnoredBits : Obligations.EncodeClearsOnlyIgnoredBits := by
  intro w i h
  obtain ⟨frame, rfl⟩ | ⟨other, wellFormed, encoded⟩ := decode_ok h
  · have fits : (taglenOf w).toNat ≤ 7 := Nat.le_of_lt_succ (taglenOf w).isLt
    refine ⟨decide_eq_true fits, .inl ⟨frame, ?_⟩⟩
    rw [← cmdWord_taglenOf_opcodeOf, frame, encode, BitVec.ofNat_toNat, BitVec.setWidth_eq]
  · exact ⟨wellFormed, .inr ⟨other, encoded.trans (cmdWord_zero_opcodeOf w)⟩⟩

end Sys2Proof
end

section
/-! PROOFS. The issuing step: the start of each command, its two outcomes, and what it leaves alone (40_commands.md R111
to R116, R125; 41_checksum.md R145 to R147). -/

namespace Sys2Proof.Machine

/-! ## The commands of an idle block -/

theorem complete_of_idle {s : State} (idle : s.phase = .idle) : complete s = { s with done := true } := by
  rw [complete, ← idle]

/-- Settles O8: no check fails, and Accept and Complete leave an idle block idle. -/
theorem nopSetsDoneOnly : Obligations.NopSetsDoneOnly := by
  intro s idle
  rw [exec_nop, issueCommand_ok idle, complete_of_idle (by exact idle)]
  rfl

/-- Settles O9: no check fails, and the register is set between Accept and Complete. -/
theorem crcInitSetsTheInitialRegister : Obligations.CrcInitSetsTheInitialRegister := by
  intro s idle
  rw [exec_crcInit, issueCommand_ok idle, complete_of_idle (by exact idle)]
  rfl

theorem startCrcRun_of_ne {s : State} (h : s.len ≠ 0) :
    startCrcRun s = { s with cnt := s.len.toNat, phase := .crcRun } :=
  if_neg fun zero => h (BitVec.eq_of_toNat_eq zero)

theorem startCrcRun_of_eq {s : State} (h : s.len = 0) :
    startCrcRun s = { s with cnt := 0, phase := .idle, done := true } := by
  simp [startCrcRun, h, complete]

/-- Settles O10: LEN decides between the two starts of a checksum. -/
theorem crcUpdateStartsFromTheRegister : Obligations.CrcUpdateStartsFromTheRegister := by
  intro s idle
  rw [exec_crcUpdate_of_idle idle]
  refine ⟨fun some_left => ?_, fun none_left => ?_⟩
  · rw [startCrcRun_of_ne (by exact some_left)]
    rfl
  · rw [startCrcRun_of_eq (by exact none_left), ← idle]
    rfl

/-- Settles O11: LEN decides between the two starts of a checksum, which the fresh register does not change. -/
theorem crcCalcStartsFromAFreshRegister : Obligations.CrcCalcStartsFromAFreshRegister := by
  intro s idle
  rw [exec_crcCalc_of_idle idle]
  refine ⟨fun some_left => ?_, fun none_left => ?_⟩
  · rw [startCrcRun_of_ne (by exact some_left)]
    rfl
  · rw [startCrcRun_of_eq (by exact none_left), ← idle]
    rfl

/-! ## The two outcomes -/

/-- An accepted command leaves the error record alone and is done at once, or runs with DONE clear (R114, R116). -/
def Accepted (s t : State) : Prop :=
  t.err = s.err ∧ t.errCode = s.errCode ∧
  ((t.phase = .idle ∧ t.done = true) ∨ (t.phase ≠ .idle ∧ t.done = false))

theorem accepted_of_startCrcRun {s : State} (clear : s.done = false) : Accepted s (startCrcRun s) := by
  obtain ⟨-, e⟩ | ⟨-, e⟩ := startCrcRun_cases s <;> rw [e]
  · exact ⟨rfl, rfl, .inl ⟨rfl, rfl⟩⟩
  · exact ⟨rfl, rfl, .inr ⟨by simp, clear⟩⟩

theorem exec_outcome {i : Instr} {s t : State} (h : exec i s = .next t) :
    (∃ k, t = reject k s) ∨ (s.phase = .idle ∧ Accepted s t) := by
  refine (exec_cases h).imp_right fun ⟨idle, start⟩ => ⟨idle, ?_⟩
  obtain ⟨-, rfl⟩ | ⟨-, rfl⟩ | ⟨-, rfl⟩ | ⟨-, rfl⟩ | ⟨-, rfl⟩ | ⟨c, -, -, rfl⟩ := start
  · exact ⟨rfl, rfl, .inl ⟨rfl, rfl⟩⟩
  · exact ⟨rfl, rfl, .inl ⟨rfl, rfl⟩⟩
  · exact accepted_of_startCrcRun (s := accept s) rfl
  · exact accepted_of_startCrcRun (s := { accept s with crcState := crcInitial }) rfl
  · exact ⟨rfl, rfl, .inr ⟨by simp [startFrame], rfl⟩⟩
  · exact ⟨rfl, rfl, .inr ⟨by simp [startPack], rfl⟩⟩

theorem issue_outcome {w : Word} {s t : State} (h : issue w s = .next t) :
    (∃ k, t = reject k s) ∨ (s.phase = .idle ∧ Accepted s t) := by
  obtain ⟨i, -, command⟩ | ⟨-, -, illegal⟩ := issue_cases w s
  · exact exec_outcome (command.symm.trans h)
  · obtain ⟨k, rejected⟩ := rejectIllegal_next s
    cases h.symm.trans (illegal.trans rejected)
    exact .inl ⟨k, rfl⟩

/-- Settles O18: a rejection writes one of the six codes; an acceptance is done or running. -/
theorem everyWordAcceptedOrRejected : Obligations.EveryWordAcceptedOrRejected := by
  intro s w
  obtain ⟨t, issued⟩ := issue_next w s
  obtain ⟨k, rfl⟩ | ⟨idle, accepted⟩ := issue_outcome issued
  · obtain ⟨low, high⟩ := errorCode_bounds k
    exact ⟨_, issued, .inl ⟨errorCode k, low, high, rfl⟩⟩
  · exact ⟨t, issued, .inr ⟨idle, accepted⟩⟩

/-! ## The frame -/

/-- What the issuing step leaves alone whatever its outcome. -/
def IssueKeeps (s t : State) : Prop :=
  t.inq = s.inq ∧ t.outq = s.outq ∧ SameOperands s t ∧ SameOutside s t ∧
  t.ieDone = s.ieDone ∧ t.ieErr = s.ieErr ∧ t.inOvf = s.inOvf

theorem issueKeeps_refl (s : State) : IssueKeeps s s :=
  ⟨rfl, rfl, ⟨rfl, rfl, rfl, rfl, rfl, rfl, rfl⟩, ⟨rfl, rfl, rfl, rfl⟩, rfl, rfl, rfl⟩

theorem startCrcRun_keeps (s : State) : IssueKeeps s (startCrcRun s) := by
  obtain ⟨-, e⟩ | ⟨-, e⟩ := startCrcRun_cases s <;> rw [e] <;> exact issueKeeps_refl s

theorem startCrcRun_crcState (s : State) : (startCrcRun s).crcState = s.crcState := by
  obtain ⟨-, e⟩ | ⟨-, e⟩ := startCrcRun_cases s <;> rw [e]

theorem exec_keeps {i : Instr} {s t : State} (h : exec i s = .next t) : IssueKeeps s t := by
  obtain ⟨k, rfl⟩ | ⟨-, start⟩ := exec_cases h
  · exact issueKeeps_refl s
  · obtain ⟨-, rfl⟩ | ⟨-, rfl⟩ | ⟨-, rfl⟩ | ⟨-, rfl⟩ | ⟨-, rfl⟩ | ⟨c, -, -, rfl⟩ := start
    · exact issueKeeps_refl s
    · exact issueKeeps_refl s
    · exact startCrcRun_keeps (accept s)
    · exact startCrcRun_keeps { accept s with crcState := crcInitial }
    · exact issueKeeps_refl s
    · exact issueKeeps_refl s

/-- Only CRC_INIT, CRC_CALC and FRAME write the CRC register when they are issued. -/
theorem exec_crcState_eq {i : Instr} {s t : State} (h : exec i s = .next t) :
    t.crcState = s.crcState ∨ i = .crcInit ∨ i = .crcCalc ∨ i = .frame 4 := by
  obtain ⟨k, rfl⟩ | ⟨-, start⟩ := exec_cases h
  · exact .inl rfl
  · obtain ⟨-, rfl⟩ | ⟨rfl, -⟩ | ⟨-, rfl⟩ | ⟨rfl, -⟩ | ⟨rfl, -⟩ | ⟨c, -, -, rfl⟩ := start
    · exact .inl rfl
    · exact .inr (.inl rfl)
    · exact .inl (startCrcRun_crcState (accept s))
    · exact .inr (.inr (.inl rfl))
    · exact .inr (.inr (.inr rfl))
    · exact .inl rfl

/-- The registers that are no part of the command's own record read as before. -/
theorem IssueKeeps.regValue_eq {s t : State} (keeps : IssueKeeps s t) {r : Reg} (not_status : r ≠ .status)
    (not_errCode : r ≠ .errCode) (not_crcState : r ≠ .crcState) (not_crcResult : r ≠ .crcResult) :
    regValue r t = regValue r s := by
  obtain ⟨inq, outq, ⟨len, tag, width, height, colorType, bufLenLo, bufLenHi⟩, -, ieDone, ieErr, -⟩ := keeps
  cases r with
  | status => exact absurd rfl not_status
  | errCode => exact absurd rfl not_errCode
  | crcState => exact absurd rfl not_crcState
  | crcResult => exact absurd rfl not_crcResult
  | len => exact len
  | tag => exact tag
  | width => exact width
  | height => exact height
  | bufLenLo => exact bufLenLo
  | bufLenHi => exact bufLenHi
  | cmd | inData => rfl
  | cfg => simp only [regValue, colorType]
  | ctrl => simp only [regValue, ctrlWord, ieDone, ieErr]
  | outData => simp only [regValue, outDataWord, outq]
  | fifoStatus => simp only [regValue, fifoStatusWord, inq, outq]

/-- Settles O19: every outcome keeps the frame, and the registers that read only the frame read as before. -/
theorem issueFrame : Obligations.IssueFrame := by
  intro i s t h
  have keeps := exec_keeps h
  have ⟨inq, outq, operands, outside, ieDone, ieErr, inOvf⟩ := keeps
  refine ⟨inq, outq, operands, outside, ieDone, ieErr, inOvf, fun command => ?crc, fun r h1 h2 h3 h4 => ?reads⟩
  case crc =>
    obtain kept | writes := exec_crcState_eq h
    · exact kept
    · obtain rfl | rfl | rfl := writes <;> simp at command
  case reads => exact keeps.regValue_eq h1 h2 h3 h4

end Sys2Proof.Machine
end

section
/-! PROOFS. The step of the machine as the turn of the agent the schedule names, and of a host that writes a command
word (00_scope.md R17; 40_commands.md R110, R111). -/

namespace Sys2Proof.Machine

theorem issue_of_decode {w : Word} {i : Instr} (h : decode w = .ok i) (s : State) : issue w s = exec i s := by
  simp [issue, h]

/-- A write of a word to CMD executes the command it decodes to (40_commands.md R110, R111). -/
theorem hostAccess_cmd {w : Word} {i : Instr} (h : decode w = .ok i) (s : State) :
    hostAccess (.write 0x08 .w32 w) s = exec i s :=
  (hostAccess_write_regOffset .cmd w s).trans (issue_of_decode h s)

theorem step_host {s : State} {agents : List Agent} (sched : s.sched = .host :: agents) :
    step s = hostTurn { s with sched := agents } := by
  simp [step, scheduledTurn, turn, sched]

theorem step_engine {s : State} {agents : List Agent} (sched : s.sched = .engine :: agents) :
    step s = .next (engineStep { s with sched := agents }) := by
  simp [step, scheduledTurn, turn, sched]

theorem step_resetInput {s : State} {agents : List Agent} (sched : s.sched = .resetInput :: agents) :
    step s = .next (resetBlock { s with sched := agents }) := by
  simp [step, scheduledTurn, turn, sched]

theorem step_default_engine {s : State} (sched : s.sched = []) (enabled : engineEnabled s = true) :
    step s = .next (engineStep s) := by
  simp [step, scheduledTurn, turn, defaultAgent, sched, enabled]

theorem step_default_host {s : State} (sched : s.sched = []) (waits : engineEnabled s = false) :
    step s = hostTurn s := by
  simp [step, scheduledTurn, turn, defaultAgent, sched, waits]

theorem hostTurn_access {s : State} {a : Access} {rest : List Access} (accesses : s.hostAccesses = a :: rest) :
    hostTurn s = hostAccess a { s with hostAccesses := rest } := by
  simp [hostTurn, accesses]

/-- Settles O7: each agent's turn is the step. -/
theorem stepTakesTheScheduledTurn : Obligations.StepTakesTheScheduledTurn :=
  fun _ _ => ⟨step_engine, step_resetInput, step_default_engine⟩

/-- Settles O5: the host's turn is its access, and its access is the command. -/
theorem stepRunsTheDecodedCommand : Obligations.StepRunsTheDecodedCommand := by
  intro s w i agents accesses decoded coming
  refine ⟨fun sched => ?_, fun sched waits => ?_⟩
  · rw [step_host sched, hostTurn_access (by exact coming), hostAccess_cmd decoded]
  · rw [step_default_host sched waits, hostTurn_access coming, hostAccess_cmd decoded]

theorem tableWord_toNat (w : Word) : tableWord 32 w.toNat = w := by
  rw [tableWord, Nat.mod_eq_of_lt w.isLt, BitVec.ofNat_toNat, BitVec.setWidth_eq]

/-- Settles O6: a 32-bit table word is the word itself, and it is placed as the host's next write of CMD. -/
theorem fetchWordIsRunByTheNextStep : Obligations.FetchWordIsRunByTheNextStep := by
  intro s w i decoded
  refine ⟨by simp [decodeTableWord, tableWord_toNat, decoded], ?_⟩
  rw [State.withFetchWord, tableWord_toNat]
  exact (stepRunsTheDecodedCommand (issueNext w s) w i s.sched s.hostAccesses decoded rfl).1 rfl

end Sys2Proof.Machine
end

section
/-! PROOFS. The checksum function: it composes, and its table form is its bit form (41_checksum.md R140 to R144). -/

namespace Sys2Proof.Machine

/-- Settles O41: a run of the CRC is a left fold, and the check value is computed. -/
theorem checksumComposes : Obligations.ChecksumComposes := by
  have check : checksum [0x31, 0x32, 0x33, 0x34, 0x35, 0x36, 0x37, 0x38, 0x39] = 0xCBF43926#32 := by decide +kernel
  exact ⟨rfl, fun c s1 s2 => (crcRun_append c s1 s2).symm, check⟩

/-! ## Linearity

One iteration is linear over exclusive or, so the low byte and the rest of the register can be run apart; the rest only
moves down. -/

theorem crcBit_of_true {x : Word} (bit : x.getLsbD 0 = true) : crcBit x = x >>> 1 ^^^ crcPoly := if_pos bit

theorem crcBit_of_false {x : Word} (bit : x.getLsbD 0 = false) : crcBit x = x >>> 1 := by
  rw [crcBit, bit]
  rfl

theorem crcBit_xor (x y : Word) : crcBit (x ^^^ y) = crcBit x ^^^ crcBit y := by
  have shifted : (x ^^^ y) >>> 1 = x >>> 1 ^^^ y >>> 1 := BitVec.ushiftRight_xor_distrib x y 1
  have bit : (x ^^^ y).getLsbD 0 = (x.getLsbD 0 ^^ y.getLsbD 0) := BitVec.getLsbD_xor
  cases hx : x.getLsbD 0 <;> cases hy : y.getLsbD 0 <;> rw [hx, hy] at bit
  case false.false => rw [crcBit_of_false bit, crcBit_of_false hx, crcBit_of_false hy, shifted]
  case false.true => rw [crcBit_of_true bit, crcBit_of_false hx, crcBit_of_true hy, shifted, BitVec.xor_assoc]
  case true.false =>
    rw [crcBit_of_true bit, crcBit_of_true hx, crcBit_of_false hy, shifted]
    ac_rfl
  case true.true =>
    have cancel : x >>> 1 ^^^ crcPoly ^^^ (y >>> 1 ^^^ crcPoly) = x >>> 1 ^^^ y >>> 1 ^^^ (crcPoly ^^^ crcPoly) := by
      ac_rfl
    rw [crcBit_of_false bit, crcBit_of_true hx, crcBit_of_true hy, shifted, cancel, BitVec.xor_self, BitVec.xor_zero]

theorem repeat_crcBit_xor (n : Nat) (x y : Word) :
    Nat.repeat crcBit n (x ^^^ y) = Nat.repeat crcBit n x ^^^ Nat.repeat crcBit n y := by
  induction n with
  | zero => rfl
  | succ n ih => rw [Nat.repeat, ih, crcBit_xor]; rfl

/-- Where the low `n` bits are zero, `n` iterations only shift. -/
theorem repeat_crcBit_of_low_zero {n : Nat} {x : Word} (low : ∀ k < n, x.getLsbD k = false) :
    Nat.repeat crcBit n x = x >>> n := by
  induction n with
  | zero => simp [Nat.repeat]
  | succ n ih =>
    have bit : (x >>> n).getLsbD 0 = false := by simpa using low n (Nat.lt_succ_self n)
    rw [Nat.repeat, ih fun k hk => low k (Nat.lt_succ_of_lt hk), crcBit_of_false bit, BitVec.shiftRight_add]

/-- The low byte of a register, and the register without it. -/
theorem low_xor_high (x : Word) : (x.extractLsb' 0 8).setWidth 32 ^^^ (x >>> 8) <<< 8 = x := by
  apply BitVec.eq_of_getLsbD_eq
  intro k hk
  by_cases low : k < 8
  · simp [hk, low]
  · simp [hk, low, Nat.add_sub_cancel' (Nat.not_lt.mp low)]

/-- An input byte does not reach the bits above the low byte. -/
theorem high_xor_byte (c : Word) (b : Byte) : (c ^^^ b.setWidth 32) >>> 8 = c >>> 8 := by
  apply BitVec.eq_of_getLsbD_eq
  intro k hk
  simp

/-- The bits shifted out at the bottom are not shifted in again. -/
theorem ushiftRight_refill (c : Word) : ((c >>> 8) <<< 8) >>> 8 = c >>> 8 := by
  apply BitVec.eq_of_getLsbD_eq
  intro k hk
  have in_word : c.getLsbD (8 + k) = true → 8 + k < 32 := BitVec.lt_of_getLsbD
  simpa using in_word

/-- The bit form runs the low byte of register and input through an empty register, and shifts the rest down. -/
theorem crcByte_eq_table (c : Word) (b : Byte) :
    crcByte c b = (c >>> 8) ^^^ crcByte 0 ((c ^^^ b.setWidth 32).extractLsb' 0 8) := by
  have low : Nat.repeat crcBit 8 (((c ^^^ b.setWidth 32).extractLsb' 0 8).setWidth 32) =
      crcByte 0 ((c ^^^ b.setWidth 32).extractLsb' 0 8) := congrArg (Nat.repeat crcBit 8) BitVec.zero_xor.symm
  have high : Nat.repeat crcBit 8 (((c ^^^ b.setWidth 32) >>> 8) <<< 8) = c >>> 8 := by
    rw [repeat_crcBit_of_low_zero fun k hk => by simp [hk], high_xor_byte, ushiftRight_refill]
  rw [crcByte, ← low_xor_high (c ^^^ b.setWidth 32), repeat_crcBit_xor, low_xor_high, low, high, BitVec.xor_comm]

/-- The literal table of R142 holds crc_byte(0, n). -/
theorem crcTableEntry_eq : ∀ b : Byte, crcTableEntry b = crcByte 0 b := by decide +kernel

/-- Settles O40: the literal entries are computed, and the form over them is the form over crc_byte(0, n). -/
theorem tableFormEqualsBitForm : Obligations.TableFormEqualsBitForm := by
  intro c b
  refine ⟨crcTableEntry_eq b, crcByte_eq_table c b, ?lut⟩
  case lut =>
    rw [crcByteLut, crcByteTable, crcTableEntry_eq]
    exact (crcByte_eq_table c b).symm

end Sys2Proof.Machine
end

section
/-! PROOFS. The framing and packing functions: what a segment holds, that packing loses nothing, and the sizes of an
accepted PACK (42_framer.md R160, R161, R172; 43_packer.md R180, R183, R184, R191). -/

namespace Sys2Proof.Machine

/-! ## Framing -/

/-- Settles O42: a segment is its length, its tag, its payload and its checksum, of 4, 4, LEN and 4 bytes. -/
theorem segmentCarriesItsChecksum : Obligations.SegmentCarriesItsChecksum := by
  intro tag payload tag_length
  have after_length : (frameBytes tag payload).drop 4 = (tag ++ payload) ++ be32 (checksum (tag ++ payload)) := by
    simp [frameBytes, be32]
  have body_length : (tag ++ payload).length = 4 + payload.length := by rw [List.length_append, tag_length]
  refine ⟨?size, ?length, ?sum⟩
  case size => simp only [frameBytes, List.length_append, length_be32, tag_length]; omega
  case length => simp [frameBytes, be32]
  case sum =>
    have after_payload : (frameBytes tag payload).drop (8 + payload.length) =
        ((frameBytes tag payload).drop 4).drop (4 + payload.length) := by rw [List.drop_drop, ← Nat.add_assoc]
    rw [after_payload, after_length, ← body_length, List.drop_left, List.take_left]

/-! ## Packing -/

/-- A row of a buffer that holds it: the filter byte and W · C samples. -/
theorem length_packedRow {p : List Byte} {n : Nat} (whole : n ≤ p.length) :
    (filterByte :: p.take n).length = 1 + n := by
  rw [List.length_cons, List.length_take_of_le whole, Nat.add_comm]

theorem row_le_of_length {p : List Byte} {w h c : Nat} (length : p.length = w * (h + 1) * c) : w * c ≤ p.length := by
  rw [length]
  exact Nat.mul_le_mul_right c (Nat.le_mul_of_pos_right w h.succ_pos)

theorem length_drop_row {p : List Byte} {w h c : Nat} (length : p.length = w * (h + 1) * c) :
    (p.drop (w * c)).length = w * h * c := by
  rw [List.length_drop, length, Nat.mul_succ, Nat.add_mul, Nat.add_sub_cancel]

theorem length_packBytes {p : List Byte} {w h c : Nat} (length : p.length = w * h * c) :
    (packBytes p w h c).length = h * (1 + w * c) := by
  induction h generalizing p with
  | zero => simp
  | succ h ih =>
    rw [packBytes_succ, List.length_append, length_packedRow (row_le_of_length length), ih (length_drop_row length)]
    ring

/-- What follows the first row of a packed buffer is the packed rest. -/
theorem drop_row_packBytes {p : List Byte} {w h c : Nat} (length : p.length = w * (h + 1) * c) (k : Nat) :
    (packBytes p w (h + 1) c).drop (1 + w * c + k) = (packBytes (p.drop (w * c)) w h c).drop k := by
  rw [packBytes_succ, ← length_packedRow (row_le_of_length length), ← List.drop_drop, List.drop_left]

theorem filterByte_of_packBytes {p : List Byte} {w h c : Nat} (length : p.length = w * h * c) {y : Nat} (row : y < h) :
    (packBytes p w h c)[y * (1 + w * c)]? = some filterByte := by
  induction h generalizing p y with
  | zero => exact absurd row (Nat.not_lt_zero y)
  | succ h ih =>
    cases y with
    | zero => simp [packBytes_succ]
    | succ y =>
      have start : (y + 1) * (1 + w * c) = 1 + w * c + y * (1 + w * c) := by ring
      rw [← List.head?_drop, start, drop_row_packBytes length, List.head?_drop]
      exact ih (length_drop_row length) (Nat.lt_of_succ_lt_succ row)

/-- The samples of every row, one row after another. -/
def unpackBytes (packed : List Byte) (w h c : Nat) : List Byte :=
  (List.range h).flatMap fun y => (packed.drop (y * (1 + w * c) + 1)).take (w * c)

theorem unpackBytes_packBytes {p : List Byte} {w h c : Nat} (length : p.length = w * h * c) :
    unpackBytes (packBytes p w h c) w h c = p := by
  induction h generalizing p with
  | zero => exact (List.eq_nil_of_length_eq_zero (by simpa using length)).symm
  | succ h ih =>
    have first : ((packBytes p w (h + 1) c).drop (0 * (1 + w * c) + 1)).take (w * c) = p.take (w * c) := by
      rw [Nat.zero_mul, packBytes_succ]
      exact List.take_left' (List.length_take_of_le (row_le_of_length length))
    have others (y : Nat) : (packBytes p w (h + 1) c).drop ((y + 1) * (1 + w * c) + 1) =
        (packBytes (p.drop (w * c)) w h c).drop (y * (1 + w * c) + 1) := by
      have start : (y + 1) * (1 + w * c) + 1 = 1 + w * c + (y * (1 + w * c) + 1) := by ring
      rw [start, drop_row_packBytes length]
    calc unpackBytes (packBytes p w (h + 1) c) w (h + 1) c
      _ = p.take (w * c) ++ unpackBytes (packBytes (p.drop (w * c)) w h c) w h c := by
        rw [unpackBytes, List.range_succ_eq_map, List.flatMap_cons, first, List.flatMap_map]
        simp only [others]
        rfl
      _ = p := by rw [ih (length_drop_row length), List.take_append_drop]

/-- Settles O43: row by row, the filter byte and the samples. -/
theorem packingIsLossless : Obligations.PackingIsLossless :=
  fun _ _ _ _ length =>
    ⟨length_packBytes length, fun _ row => filterByte_of_packBytes length row, unpackBytes_packBytes length⟩

/-! ## Sizes -/

/-- Settles O44: width and height are at most 0x7FFFFFFF, and the channels 3 or 4. -/
theorem packCountsFitSixtyFourBits : Obligations.PackCountsFitSixtyFourBits := by
  intro s c passes
  obtain ⟨-, w_pos, w_max, h_pos, h_max, -⟩ := checkPack_ok passes
  obtain ⟨row_min, row_max⟩ := row_bounds w_pos w_max c
  refine ⟨?samples, ?output, row_min, row_max, Nat.lt_of_le_of_lt h_max (by decide)⟩
  case samples =>
    calc s.width.toNat * s.height.toNat * c.count
      _ = s.height.toNat * (s.width.toNat * c.count) := by ring
      _ ≤ 0x7FFFFFFF * 0x1FFFFFFFC := Nat.mul_le_mul h_max row_max
      _ = 0xFFFFFFFC00000004 := by norm_num
  case output =>
    calc s.height.toNat * (1 + s.width.toNat * c.count)
      _ ≤ 0x7FFFFFFF * (1 + 0x1FFFFFFFC) := Nat.mul_le_mul h_max (Nat.add_le_add_left row_max 1)
      _ = 0xFFFFFFFC80000003 := by norm_num

end Sys2Proof.Machine
end

section
/-! PROOFS. The register window: its addresses, its unsupported accesses, and what each register reads and stores
(20_memory.md R61 to R66, R70; 10_state.md section 7). -/

namespace Sys2Proof.Machine

/-! ## Addresses -/

/-- Every multiple of 4 in the window is the offset of a register (20_memory.md R61). -/
theorem accessReg_of_aligned {offset : Int} (low : 0 ≤ offset) (high : offset < 64) (aligned : offset % 4 = 0) :
    ∃ r, offset = regOffset r ∧ accessReg offset .w32 = some r := by
  have every : ∀ k : Fin 16, (accessReg ((4 * k.val : Nat) : Int) .w32).isSome = true := by decide
  obtain ⟨k, rfl⟩ : ∃ k : Nat, offset = ((4 * k : Nat) : Int) := ⟨(offset / 4).toNat, by omega⟩
  obtain ⟨r, names⟩ := Option.isSome_iff_exists.mp (every ⟨k, by omega⟩)
  exact ⟨r, (accessReg_some names).2.1, names⟩

theorem windowOffset_add (p : Params) (k : Nat) : windowOffset p (p.base + k) = k := by
  simp [windowOffset]

theorem reachesBlock_iff (offset : Int) (width : Width) :
    reachesBlock offset width = true ↔ 0 < offset + widthBytes width ∧ offset < 64 := by
  simp [reachesBlock]

theorem reachesBlock_of_outside {offset : Int} {width : Width} (outside : offset + widthBytes width ≤ 0 ∨ 64 ≤ offset) :
    reachesBlock offset width = false := by
  rw [← Bool.not_eq_true, reachesBlock_iff]
  omega

/-- Settles O45: an address is its offset from BASE, and the window's aligned offsets are those of the registers. -/
theorem addressesNameRegisters : Obligations.AddressesNameRegisters := by
  rintro p ⟨-, -, -, -, base⟩
  refine ⟨fun r => ?register, fun address low high aligned => ?address, fun address width outside => ?outside⟩
  case register =>
    rw [windowOffset_add]
    have names := accessReg_regOffset r
    exact ⟨names, (accessReg_some names).2.2⟩
  case address =>
    obtain ⟨r, offset, names⟩ := accessReg_of_aligned (offset := windowOffset p address) (by unfold windowOffset; omega)
      (by unfold windowOffset; omega) (by unfold windowOffset; omega)
    exact ⟨r, by unfold windowOffset at offset; omega, names⟩
  case outside =>
    exact reachesBlock_of_outside (by unfold windowOffset; omega)

/-! ## Unsupported accesses and accesses outside the window -/

/-- Within the window no register answers an access of another width, or off the multiples of 4 (20_memory.md R63). -/
theorem accessReg_of_unsupported {offset : Int} {width : Width} (unsupported : width ≠ .w32 ∨ offset % 4 ≠ 0) :
    accessReg offset width = none := by
  cases names : accessReg offset width with
  | none => rfl
  | some r =>
    obtain ⟨width_eq, offset_eq, -⟩ := accessReg_some names
    have aligned : offset % 4 = 0 := by rw [offset_eq]; cases r <;> rfl
    obtain other | misaligned := unsupported
    · exact absurd width_eq other
    · exact absurd aligned misaligned

theorem widthBytes_pos (width : Width) : 1 ≤ widthBytes width := by cases width <;> decide

/-- Settles O46: where no register answers an access that reaches the block it is refused, and one that does not reach
the block changes nothing. -/
theorem unsupportedAccessesRefusedOutsideOnesIgnored : Obligations.UnsupportedAccessesRefusedOutsideOnesIgnored := by
  intro s offset width v
  refine ⟨fun low high unsupported => ?refused, fun outside => ?ignored⟩
  case refused =>
    have bytes := widthBytes_pos width
    have reaches : reachesBlock offset width = true := (reachesBlock_iff _ _).mpr ⟨by omega, high⟩
    simp [hostAccess, reaches, accessReg_of_unsupported unsupported]
  case ignored => simp [hostAccess, reachesBlock_of_outside outside]

/-! ## Reads -/

/-- A 32-bit read of a register other than OUT_DATA hands its value to the host and changes nothing else (20_memory.md
R62, R66). -/
theorem hostAccess_read_value {r : Reg} (other : r ≠ .outData) (s : State) :
    hostAccess (.read (regOffset r) .w32) s = .next { s with readLog := regValue r s :: s.readLog } := by
  obtain ⟨-, e⟩ | ⟨outData, -⟩ | ⟨_, _, outData, -⟩ := readReg_cases r s
  · rw [hostAccess_read_regOffset, e]
  · exact absurd outData other
  · exact absurd outData other

/-- Settles O47: each offset is a register's, and each value is the register's. -/
theorem readsReturnTheRegisters : Obligations.ReadsReturnTheRegisters := by
  intro s
  have reads {r : Reg} (other : r ≠ .outData := by decide) := hostAccess_read_value other s
  exact ⟨reads (r := .ctrl), reads (r := .status), reads (r := .cmd), reads (r := .errCode), reads (r := .len),
    reads (r := .tag), reads (r := .width), reads (r := .height), reads (r := .cfg), reads (r := .bufLenLo),
    reads (r := .bufLenHi), reads (r := .crcState), reads (r := .crcResult), reads (r := .inData),
    reads (r := .fifoStatus)⟩

/-! ## Writes -/

/-- Settles O50: the write pushes bits 7:0, with the two cases of a push. -/
theorem pushAppendsOrOverflows : Obligations.PushAppendsOrOverflows := by
  intro s v
  have access : hostAccess (.write 0x34 .w32 v) s = .next (pushInput (v.extractLsb' 0 8) s) :=
    hostAccess_write_regOffset .inData v s
  rw [access]
  obtain ⟨room, e⟩ | ⟨full, e⟩ := pushInput_cases (v.extractLsb' 0 8) s <;> rw [e]
  · exact ⟨fun _ => rfl, fun full => absurd room (Nat.not_lt.mpr full)⟩
  · exact ⟨fun room => absurd room (Nat.not_lt.mpr full), fun _ => rfl⟩

/-- Settles O51: the write clears the flags its bits name. -/
theorem statusWriteClearsFlags : Obligations.StatusWriteClearsFlags := by
  intro s v
  have access : hostAccess (.write 0x04 .w32 v) s = .next (clearFlags v s) := hostAccess_write_regOffset .status v s
  rw [access, clearFlags_eq]

theorem writeCrcState_of_idle {s : State} (idle : s.phase = .idle) (v : Word) :
    writeCrcState v s = { s with crcState := v } := by
  simp [writeCrcState, (busy_false_iff s).mpr idle]

/-- Settles O52: each offset is a register's, and CTRL and CRC_STATE store where their rules let them. -/
theorem registerWritesStoreOrAreIgnored : Obligations.RegisterWritesStoreOrAreIgnored := by
  intro s v
  have writes (r : Reg) := hostAccess_write_regOffset r v s
  exact ⟨fun no_reset => (writes .ctrl).trans (congrArg _ (writeCtrl_of_no_srst no_reset s)),
    writes .len, writes .tag, writes .width, writes .height, writes .cfg, writes .bufLenLo, writes .bufLenHi,
    fun idle => (writes .crcState).trans (congrArg _ (writeCrcState_of_idle idle v)),
    fun running => (writes .crcState).trans (congrArg _ (writeCrcState_of_running running v)),
    writes .errCode, writes .crcResult, writes .outData, writes .fifoStatus⟩

end Sys2Proof.Machine
end

section
/-! PROOFS. The words made of the flags and the FIFO levels, and the registers after reset (10_state.md R31, R32, R39;
60_exceptions.md R210; 70_reset_and_hazards.md R234). -/

namespace Sys2Proof.Machine

/-- The five bits of STATUS by number (10_state.md R32). -/
theorem getLsbD_statusWord (s : State) (k : Fin 5) :
    (statusWord s).getLsbD k = [busy s, s.done, s.err, s.inOvf, irq s][k] := by
  have every : ∀ b4 b3 b2 b1 b0 : Bool, ∀ k : Fin 5,
      ((BitVec.ofBool b4 ++ BitVec.ofBool b3 ++ BitVec.ofBool b2 ++ BitVec.ofBool b1
        ++ BitVec.ofBool b0).setWidth 32).getLsbD k = [b0, b1, b2, b3, b4][k] := by decide
  exact every (irq s) s.inOvf s.err s.done (busy s) k

theorem getLsbD_statusWord_reserved (s : State) {k : Nat} (h : 5 ≤ k) : (statusWord s).getLsbD k = false := by
  rw [statusWord, BitVec.getLsbD_setWidth, BitVec.getLsbD_of_ge _ k h, Bool.and_false]

/-- The two bits of CTRL by number (10_state.md R31). -/
theorem getLsbD_ctrlWord (s : State) (k : Fin 2) : (ctrlWord s).getLsbD k = [s.ieDone, s.ieErr][k] := by
  have every : ∀ b1 b0 : Bool, ∀ k : Fin 2,
      ((BitVec.ofBool b1 ++ BitVec.ofBool b0).setWidth 32).getLsbD k = [b0, b1][k] := by decide
  exact every s.ieErr s.ieDone k

theorem getLsbD_ctrlWord_reserved (s : State) {k : Nat} (h : 2 ≤ k) : (ctrlWord s).getLsbD k = false := by
  rw [ctrlWord, BitVec.getLsbD_setWidth, BitVec.getLsbD_of_ge _ k h, Bool.and_false]

/-- FIFO_STATUS holds both levels in full where they fit 16 bits (10_state.md R39). -/
theorem fifoStatusWord_levels {s : State} (inq : s.inq.length < 2 ^ 16) (outq : s.outq.length < 2 ^ 16) :
    ((fifoStatusWord s).extractLsb' 0 16).toNat = s.inq.length ∧
    ((fifoStatusWord s).extractLsb' 16 16).toNat = s.outq.length := by
  have low : (fifoStatusWord s).extractLsb' 0 16 = BitVec.ofNat 16 s.inq.length := BitVec.extractLsb'_append_eq_right
  have high : (fifoStatusWord s).extractLsb' 16 16 = BitVec.ofNat 16 s.outq.length := BitVec.extractLsb'_append_eq_left
  rw [low, high, BitVec.toNat_ofNat, BitVec.toNat_ofNat, Nat.mod_eq_of_lt inq, Nat.mod_eq_of_lt outq]
  exact ⟨rfl, rfl⟩

/-- Settles O48: bit by bit, and the FIFO levels are within depths that fit 16 bits. -/
theorem statusWordsHaveTheirBits : Obligations.StatusWordsHaveTheirBits := by
  intro s
  have running : (statusWord s).getLsbD 0 = busy s := getLsbD_statusWord s 0
  refine ⟨by rw [running, busy_iff], getLsbD_statusWord s 1, getLsbD_statusWord s 2, getLsbD_statusWord s 3,
    getLsbD_statusWord s 4, fun _ => getLsbD_statusWord_reserved s, getLsbD_ctrlWord s 0, getLsbD_ctrlWord s 1,
    fun _ => getLsbD_ctrlWord_reserved s, ?levels⟩
  case levels =>
    rintro ⟨⟨-, inDepth, -, outDepth, -⟩, ⟨inq, outq, -⟩, -⟩
    exact fifoStatusWord_levels (by omega) (by omega)

/-- Settles O54: every field of the reset state is the value of R234, and the words made of them are 0. -/
theorem resetStateIsTheSpecs : Obligations.ResetStateIsTheSpecs := by
  refine ⟨rfl, rfl, rfl, rfl, rfl, fun r other => ?_, rfl⟩
  cases r with
  | crcState => exact absurd rfl other
  | crcResult => decide
  | _ => rfl

end Sys2Proof.Machine
end

section
/-! PROOFS. Rules of the whole machine: what stops a step, what changes an operand register, and what raises an error
flag (10_state.md R28, R33; 20_memory.md R63; 40_commands.md R112; 60_exceptions.md R206, R207). -/

namespace Sys2Proof.Machine

/-! ## What stops a step -/

/-- An access at a place of the window where no register answers (20_memory.md R63). -/
def Access.Unsupported (a : Access) : Prop :=
  ∃ (offset : Int) (width : Width), (a = .read offset width ∨ ∃ v, a = .write offset width v) ∧
    0 < offset + widthBytes width ∧ offset < 64 ∧ (width ≠ .w32 ∨ offset % 4 ≠ 0)

theorem unsupported_of_no_register {offset : Int} {width : Width} (names : accessReg offset width = none)
    (reaches : reachesBlock offset width = true) :
    0 < offset + widthBytes width ∧ offset < 64 ∧ (width ≠ .w32 ∨ offset % 4 ≠ 0) := by
  obtain ⟨low, high⟩ := (reachesBlock_iff offset width).mp reaches
  refine ⟨low, high, ?_⟩
  by_contra supported
  obtain ⟨rfl, aligned⟩ : width = .w32 ∧ offset % 4 = 0 := by simpa using supported
  have four : (widthBytes .w32 : Int) = 4 := rfl
  obtain ⟨r, -, named⟩ := accessReg_of_aligned (by omega) high aligned
  cases names.symm.trans named

/-- A host access answers a next state, or is unsupported and refused (20_memory.md R61, R63). -/
theorem hostAccess_outcome (a : Access) (s : State) :
    (∃ t, hostAccess a s = .next t) ∨ (hostAccess a s = .refused .unsupportedAccess ∧ a.Unsupported) := by
  obtain ⟨-, e⟩ | ⟨target, e⟩ | ⟨_, _, r, -, -, e⟩ | ⟨_, _, v, r, -, -, e⟩ := hostAccess_cases a s
  · exact .inl ⟨s, e⟩
  · refine .inr ⟨e, ?_⟩
    cases a with
    | read offset width =>
      have reaches : reachesBlock offset width = true := by
        by_contra outside
        simp [hostAccess, outside] at e
      exact ⟨offset, width, .inl rfl, unsupported_of_no_register target reaches⟩
    | write offset width v =>
      have reaches : reachesBlock offset width = true := by
        by_contra outside
        simp [hostAccess, outside] at e
      exact ⟨offset, width, .inr ⟨v, rfl⟩, unsupported_of_no_register target reaches⟩
  · exact .inl ⟨_, e⟩
  · obtain ⟨t, stored⟩ := writeReg_next r v s
    exact .inl ⟨t, e.trans stored⟩

theorem hostTurn_outcome {s : State} {agents : List Agent} (moves : comingAgent s = .host) :
    (∃ t, hostTurn { s with sched := agents } = .next t) ∨
    (hostTurn { s with sched := agents } = .refused .unsupportedAccess ∧
      ∃ a, comingAccess s = some a ∧ a.Unsupported) := by
  obtain ⟨-, e⟩ | ⟨a, rest, accesses, e⟩ := hostTurn_cases { s with sched := agents }
  · exact .inl ⟨_, e⟩
  · rw [e]
    exact (hostAccess_outcome a _).imp_right fun ⟨refused, unsupported⟩ =>
      ⟨refused, a, comingAccess_of_host moves accesses, unsupported⟩

theorem step_outcome (s : State) :
    (∃ t, step s = .next t) ∨
    (step s = .refused .unsupportedAccess ∧ ∃ a, comingAccess s = some a ∧ a.Unsupported) := by
  obtain ⟨-, -, e⟩ | ⟨sched, waits, e⟩ | ⟨agents, sched, e⟩ | ⟨_, -, e⟩ | ⟨_, -, e⟩ := step_cases s
  · exact .inl ⟨_, e⟩
  · rw [e]
    exact hostTurn_outcome (agents := s.sched) (by simp [comingAgent, sched, defaultAgent, waits])
  · rw [e]
    exact hostTurn_outcome (by simp [comingAgent, sched])
  · exact .inl ⟨_, e⟩
  · exact .inl ⟨_, e⟩

/-! ## The configuration -/

theorem issue_keeps {w : Word} {s t : State} (h : issue w s = .next t) : IssueKeeps s t := by
  obtain ⟨i, -, command⟩ | ⟨-, -, illegal⟩ := issue_cases w s
  · exact exec_keeps (command.symm.trans h)
  · obtain ⟨k, rejected⟩ := rejectIllegal_next s
    cases h.symm.trans (illegal.trans rejected)
    exact issueKeeps_refl s

theorem writeCtrl_params (v : Word) (s : State) : (writeCtrl v s).params = s.params := by
  unfold writeCtrl
  split <;> rfl

theorem writeReg_params {r : Reg} {v : Word} {s t : State} (h : writeReg r v s = .next t) : t.params = s.params := by
  cases r with
  | cmd =>
    obtain ⟨-, -, -, ⟨params, -⟩, -⟩ := issue_keeps h
    exact params
  | ctrl => cases h; exact writeCtrl_params v s
  | status =>
    obtain ⟨-, params, -⟩ := clearFlags_effect v s
    cases h; exact params
  | crcState => cases h; unfold writeCrcState; split <;> rfl
  | inData =>
    obtain ⟨-, params, -⟩ := pushInput_effect v s
    cases h; exact params
  | len | tag | width | height | cfg | bufLenLo | bufLenHi | errCode | crcResult | outData | fifoStatus =>
    cases h; rfl

theorem engineStep_params (s : State) : (engineStep s).params = s.params := by
  obtain ⟨-, ⟨params, -⟩, -⟩ := engineStepFrame s
  exact params

theorem step_params {s t : State} (h : step s = .next t) : t.params = s.params := by
  cases step_moves h with
  | engine agents => exact engineStep_params { s with sched := agents }
  | resetInput | unseen => rfl
  | read agents accesses r =>
    obtain ⟨-, params, -⟩ := readReg_effect r { s with sched := agents, hostAccesses := accesses }
    exact params
  | write agents accesses r v _ _ stored =>
    exact writeReg_params (s := { s with sched := agents, hostAccesses := accesses }) stored

/-- Settles O57: a step has a next state unless its access is unsupported, and no next state has another
configuration. -/
theorem onlyUnsupportedAccessesStop : Obligations.OnlyUnsupportedAccessesStop := by
  intro s
  obtain ⟨t, h⟩ | ⟨refused, a, access, offset, width, place, unsupported⟩ := step_outcome s
  · exact .inl ⟨t, h, step_params h⟩
  · refine .inr ⟨refused, offset, width, ?_, unsupported⟩
    obtain rfl | ⟨v, rfl⟩ := place
    · exact .inl access
    · exact .inr ⟨v, access⟩

/-! ## What changes an operand register -/

/-- From `s` to `t` an operand register has changed only to the value the write given stores in it. -/
def OperandsFollow (write : Option (Reg × Word)) (s t : State) : Prop :=
  (t.len ≠ s.len → write = some (.len, t.len)) ∧
  (t.tag ≠ s.tag → write = some (.tag, t.tag)) ∧
  (t.width ≠ s.width → write = some (.width, t.width)) ∧
  (t.height ≠ s.height → write = some (.height, t.height)) ∧
  (t.colorType ≠ s.colorType → ∃ v : Word, write = some (.cfg, v) ∧ t.colorType = v.extractLsb' 0 8) ∧
  (t.bufLenLo ≠ s.bufLenLo → write = some (.bufLenLo, t.bufLenLo)) ∧
  (t.bufLenHi ≠ s.bufLenHi → write = some (.bufLenHi, t.bufLenHi))

theorem operandsFollow_of_same {s t : State} (same : SameOperands s t) (write : Option (Reg × Word)) :
    OperandsFollow write s t := by
  obtain ⟨len, tag, width, height, colorType, bufLenLo, bufLenHi⟩ := same
  exact ⟨fun ne => absurd len ne, fun ne => absurd tag ne, fun ne => absurd width ne, fun ne => absurd height ne,
    fun ne => absurd colorType ne, fun ne => absurd bufLenLo ne, fun ne => absurd bufLenHi ne⟩

theorem sameOperands_refl (s : State) : SameOperands s s := ⟨rfl, rfl, rfl, rfl, rfl, rfl, rfl⟩

theorem readReg_sameOperands (r : Reg) (s : State) : SameOperands s (readReg r s) := by
  obtain ⟨-, e⟩ | ⟨-, -, e⟩ | ⟨_, _, -, -, e⟩ := readReg_cases r s <;> rw [e] <;> exact sameOperands_refl s

theorem pushInput_sameOperands (b : Byte) (s : State) : SameOperands s (pushInput b s) := by
  obtain ⟨-, e⟩ | ⟨-, e⟩ := pushInput_cases b s <;> rw [e] <;> exact sameOperands_refl s

theorem clearFlags_sameOperands (v : Word) (s : State) : SameOperands s (clearFlags v s) := by
  rw [clearFlags_eq]
  exact sameOperands_refl s

theorem writeCrcState_sameOperands (v : Word) (s : State) : SameOperands s (writeCrcState v s) := by
  unfold writeCrcState
  split <;> exact sameOperands_refl s

theorem writeReg_operandsFollow {r : Reg} {v : Word} {s t : State} (no_reset : r = .ctrl → v.getLsbD 31 = false)
    (h : writeReg r v s = .next t) : OperandsFollow (some (r, v)) s t := by
  cases r with
  | len | tag | width | height | cfg | bufLenLo | bufLenHi => cases h; simp [OperandsFollow]
  | cmd =>
    obtain ⟨-, -, same, -⟩ := issue_keeps h
    exact operandsFollow_of_same same _
  | ctrl =>
    cases h
    rw [writeCtrl_of_no_srst (no_reset rfl)]
    exact operandsFollow_of_same (sameOperands_refl s) _
  | status => cases h; exact operandsFollow_of_same (clearFlags_sameOperands v s) _
  | crcState => cases h; exact operandsFollow_of_same (writeCrcState_sameOperands v s) _
  | inData => cases h; exact operandsFollow_of_same (pushInput_sameOperands _ s) _
  | errCode | crcResult | outData | fifoStatus => cases h; exact operandsFollow_of_same (sameOperands_refl s) _

/-- Settles O58: of the turns that are no reset, only a write of the register follows it. -/
theorem onlyTheHostChangesOperands : Obligations.OnlyTheHostChangesOperands := by
  intro s t h no_reset
  cases step_moves h with
  | engine agents =>
    obtain ⟨same, -⟩ := engineStepFrame { s with sched := agents }
    exact operandsFollow_of_same same _
  | resetInput agents moves => simp [resetsNext_of_resetInput moves] at no_reset
  | unseen => exact operandsFollow_of_same (sameOperands_refl s) _
  | read agents accesses r =>
    exact operandsFollow_of_same (readReg_sameOperands r { s with sched := agents, hostAccesses := accesses }) _
  | write agents accesses r v _ writes stored =>
    rw [writes]
    exact writeReg_operandsFollow (s := { s with sched := agents, hostAccesses := accesses })
      (noSrst_of_no_reset no_reset writes) stored

/-! ## What raises an error flag -/

/-- Of the writes, one of CMD alone raises ERR, and one of IN_DATA that finds INQ full alone raises IN_OVF. -/
theorem writeReg_raises {r : Reg} {v : Word} {s t : State} (h : writeReg r v s = .next t) :
    (t.err = true → s.err = true ∨ r = .cmd) ∧
    (t.inOvf = true → s.inOvf = true ∨ (r = .inData ∧ s.params.inDepth ≤ s.inq.length)) := by
  cases r with
  | cmd =>
    obtain ⟨-, -, -, -, -, -, inOvf⟩ := issue_keeps h
    exact ⟨fun _ => .inr rfl, fun raised => .inl (inOvf ▸ raised)⟩
  | inData =>
    cases h
    obtain ⟨-, e⟩ | ⟨full, e⟩ := pushInput_cases (v.extractLsb' 0 8) s <;> rw [e]
    · exact ⟨.inl, .inl⟩
    · exact ⟨.inl, fun _ => .inr ⟨rfl, full⟩⟩
  | status =>
    cases h
    rw [clearFlags_eq]
    exact ⟨fun raised => .inl (Bool.and_eq_true_iff.mp raised).1,
      fun raised => .inl (Bool.and_eq_true_iff.mp raised).1⟩
  | ctrl =>
    cases h
    unfold writeCtrl
    split
    · exact ⟨nofun, nofun⟩
    · exact ⟨.inl, .inl⟩
  | crcState =>
    cases h
    unfold writeCrcState
    split <;> exact ⟨.inl, .inl⟩
  | len | tag | width | height | cfg | bufLenLo | bufLenHi | errCode | crcResult | outData | fifoStatus =>
    cases h; exact ⟨.inl, .inl⟩

theorem readReg_flags (r : Reg) (s : State) : (readReg r s).err = s.err ∧ (readReg r s).inOvf = s.inOvf := by
  obtain ⟨-, e⟩ | ⟨-, -, e⟩ | ⟨_, _, -, -, e⟩ := readReg_cases r s <;> rw [e] <;> exact ⟨rfl, rfl⟩

/-- A step raises no error flag, or it is a write that does. -/
theorem step_raises {s t : State} (h : step s = .next t) :
    ((t.err = true → s.err = true) ∧ (t.inOvf = true → s.inOvf = true)) ∨
    ∃ r v, comingWrite s = some (r, v) ∧ (t.err = true → s.err = true ∨ r = .cmd) ∧
      (t.inOvf = true → s.inOvf = true ∨ (r = .inData ∧ s.params.inDepth ≤ s.inq.length)) := by
  cases step_moves h with
  | engine agents =>
    obtain ⟨-, -, -, -, err, -, inOvf, -⟩ := engineStepFrame { s with sched := agents }
    exact .inl ⟨fun raised => err ▸ raised, fun raised => inOvf ▸ raised⟩
  | resetInput => exact .inl ⟨nofun, nofun⟩
  | unseen => exact .inl ⟨id, id⟩
  | read agents accesses r =>
    obtain ⟨err, inOvf⟩ := readReg_flags r { s with sched := agents, hostAccesses := accesses }
    exact .inl ⟨fun raised => err ▸ raised, fun raised => inOvf ▸ raised⟩
  | write agents accesses r v _ writes stored =>
    exact .inr ⟨r, v, writes,
      writeReg_raises (s := { s with sched := agents, hostAccesses := accesses }) stored⟩

/-- Settles O59: a flag that was clear and is set was raised by its one cause. -/
theorem errorFlagsRiseOnlyByTheirCauses : Obligations.ErrorFlagsRiseOnlyByTheirCauses := by
  intro s t h
  obtain ⟨err, inOvf⟩ | ⟨r, v, writes, err, inOvf⟩ := step_raises h
  · exact ⟨fun clear raised => by simp [err raised] at clear, fun clear raised => by simp [inOvf raised] at clear⟩
  · refine ⟨fun clear raised => ?err, fun clear raised => ?inOvf⟩
    case err =>
      obtain set | rfl := err raised
      · simp [set] at clear
      · exact ⟨v, writes⟩
    case inOvf =>
      obtain set | ⟨rfl, full⟩ := inOvf raised
      · simp [set] at clear
      · exact ⟨full, v, writes⟩

end Sys2Proof.Machine
end
